-- ==== Sys2Proof/Word.lean ====
section
/-! DEFINITION. The word types of the block (spec/00_scope.md R8, R9): `u8`, `u16`, `u64` and byte sequences. -/

namespace Sys2Proof

/-- `u8` of R8. -/
abbrev Byte := BitVec 8

/-- `u16` of R8. -/
abbrev U16 := BitVec 16

/-- `u64` of R8. -/
abbrev U64 := BitVec 64

/-- A byte sequence of R9: index 0 is the first byte received or sent. -/
abbrev Bytes := List Byte

end Sys2Proof
end

