-- ==== Sys2Proof/Config.lean ====
section
/-! DEFINITION. The implementation parameters of spec/00_scope.md R5, the constraints R6 puts on them, and the
test configuration TC1 of R7. The constants are a record that the machine carries unchanged (R39: they behave as
read-only control registers), so that every statement about a state ranges over every configuration. -/

namespace Sys2Proof

/-- The OPEN parameters of R5: ten wire constants, and the capacity of the ME receive buffer (`none` is unbounded,
decision D18). -/
structure Config where
  /-- `FRAME_START` -/
  frameStart : Byte
  /-- `FRAME_END` -/
  frameEnd : Byte
  /-- `CTRL_TRANSMISSION` -/
  ctrlTransmission : Byte
  /-- `CTRL_SUCCESS` -/
  ctrlSuccess : Byte
  /-- `CTRL_CRC_FAILED` -/
  ctrlCrcFailed : Byte
  /-- `CTRL_WRONG_END` -/
  ctrlWrongEnd : Byte
  /-- `CTRL_PORT_NOT_CONNECT` -/
  ctrlPortNotConnect : Byte
  /-- `ME_START` -/
  meStart : Byte
  /-- `ME_ACK` -/
  meAck : Byte
  /-- `ME_NACK` -/
  meNack : Byte
  /-- `ME_RXBUF_CAP` -/
  meRxbufCap : Option Nat
  deriving DecidableEq, Repr

/-- R6 (a): the five control codes are pairwise distinct. -/
abbrev Config.ControlsDistinct (c : Config) : Prop :=
  [c.ctrlTransmission, c.ctrlSuccess, c.ctrlCrcFailed, c.ctrlWrongEnd, c.ctrlPortNotConnect].Nodup

/-- R6 (a) to (c): all that a configuration is assumed to meet. No numeric value and no ordering is assumed, and
neither frame marker need differ from any other byte. -/
abbrev Config.Legal (c : Config) : Prop :=
  c.ControlsDistinct ∧ c.meStart ≠ c.meAck ∧ c.meNack ≠ c.meStart ∧ c.meNack ≠ c.meAck

/-- The test configuration TC1 of R7: the spec's own arbitrary instance, used by its vectors. -/
def Config.tc1 : Config :=
  { frameStart := 0x7E, frameEnd := 0x7F
    ctrlTransmission := 0x01, ctrlSuccess := 0x02, ctrlCrcFailed := 0x03, ctrlWrongEnd := 0x04
    ctrlPortNotConnect := 0x05
    meStart := 0xA1, meAck := 0xA2, meNack := 0xA3
    meRxbufCap := none }

/-- The configuration that `State.reset` carries. DESIGN CHOICE (log entry 1): the spec gives the constants no value,
so the one instance it names, TC1, stands here; no meaning refers to it. -/
def Config.configured : Config := Config.tc1

/-- `MAX_PAYLOAD` of R5 (fixed): the largest frame payload, in bytes. -/
def maxPayload : Nat := 255

/-- The bound of R28 on a Message: `|bytes| < 2^64`. -/
def messageBound : Nat := 2 ^ 64

end Sys2Proof
end

