-- ==== Sys2Proof/Syntax.lean ====
section
/-! DEFINITION. The record types of spec/10_state.md R21 and spec/40_codec.md R124, and the operation set: one
constructor of `Instr` for each of the 44 rows of spec/opcode_table.json (R93, R94, R101). -/

namespace Sys2Proof

/-- The control enum of R84, in D0's order. Its wire codes are the constants of `Config`. -/
inductive Control where
  | transmission
  | success
  | crcChecksumFailed
  | wrongEndByte
  | portNotConnect
  deriving DecidableEq, Repr

/-- `HandlerId` of R5: an opaque identity, only ever stored, compared and returned. DESIGN CHOICE (log entry 3): the
type is left open by the spec; here it is a name of any number of bytes. -/
structure HandlerId where
  name : Bytes
  deriving DecidableEq, Repr

/-- The Frame record of R21. `control` is the raw byte. -/
structure Frame where
  length : Byte
  number : Byte
  port : Byte
  control : Byte
  payload : Bytes
  crc : U16
  deriving DecidableEq, Repr

/-- The result classes of `FRAME_DECODE` (R124). -/
inductive DecodeResult where
  | malformed
  | decoded (f : Frame) (crcOk endOk : Bool)
  deriving DecidableEq, Repr

/-- The operations. The first 14 are the wire encodings of R80, R86 and R88: `frame…` and `msg…` are received,
`reply…` is emitted (log entry 5). The next 14 are the sub-operations of R94, each with the byte received. The last
16 are the operations of R93, in its order. -/
inductive Instr where
  /-- `FRAME.TRANSMISSION` -/
  | frameTransmission (number port : Byte) (payload : Bytes)
  /-- `FRAME.SUCCESS` -/
  | frameSuccess (number port : Byte) (payload : Bytes)
  /-- `FRAME.CRCFAIL` -/
  | frameCrcFail (number port : Byte) (payload : Bytes)
  /-- `FRAME.WRONGEND` -/
  | frameWrongEnd (number port : Byte) (payload : Bytes)
  /-- `FRAME.PORTNC` -/
  | framePortNc (number port : Byte) (payload : Bytes)
  /-- `REPLY.SUCCESS` -/
  | replySuccess (number port : Byte)
  /-- `REPLY.CRCFAIL` -/
  | replyCrcFail (number port : Byte)
  /-- `REPLY.WRONGEND` -/
  | replyWrongEnd (number port : Byte)
  /-- `REPLY.PORTNC` -/
  | replyPortNc (number port : Byte)
  /-- `MSG.START` -/
  | msgStart
  /-- `MSG.ACK` -/
  | msgAck
  /-- `MSG.NACK` -/
  | msgNack
  /-- `MSG.LENGTH` -/
  | msgLength (len : U64)
  /-- `MSG.PAYLOAD` -/
  | msgPayload (bytes : Bytes)
  /-- `FE_RX.IDLE_START` -/
  | feRxIdleStart (b : Byte)
  /-- `FE_RX.IDLE_OTHER` -/
  | feRxIdleOther (b : Byte)
  /-- `FE_RX.LENGTH` -/
  | feRxLength (b : Byte)
  /-- `FE_RX.NUMBER` -/
  | feRxNumber (b : Byte)
  /-- `FE_RX.PORT` -/
  | feRxPort (b : Byte)
  /-- `FE_RX.CONTROL` -/
  | feRxControl (b : Byte)
  /-- `FE_RX.PAYLOAD` -/
  | feRxPayload (b : Byte)
  /-- `FE_RX.CRC` -/
  | feRxCrc (b : Byte)
  /-- `FE_RX.END` -/
  | feRxEnd (b : Byte)
  /-- `ME_RX.IDLE_START` -/
  | meRxIdleStart (b : Byte)
  /-- `ME_RX.IDLE_ACK` -/
  | meRxIdleAck (b : Byte)
  /-- `ME_RX.IDLE_OTHER` -/
  | meRxIdleOther (b : Byte)
  /-- `ME_RX.LENGTH` -/
  | meRxLength (b : Byte)
  /-- `ME_RX.PAYLOAD` -/
  | meRxPayload (b : Byte)
  /-- `CRC16_STEP` -/
  | crc16Step (c : U16) (b : Byte)
  /-- `CRC16` -/
  | crc16 (bytes : Bytes)
  /-- `SER_U16` -/
  | serU16 (v : U16)
  /-- `SER_U64` -/
  | serU64 (v : U64)
  /-- `FRAME_ENCODE` -/
  | frameEncode (number port : Byte) (control : Control) (payload : Bytes)
  /-- `FRAME_DECODE` -/
  | frameDecode (w : Bytes)
  /-- `FE_CONNECT` -/
  | feConnect (port : Byte) (h : HandlerId)
  /-- `FE_RX_BYTE` -/
  | feRxByte (b : Byte)
  /-- `FE_RX_CHUNK` -/
  | feRxChunk (bytes : Bytes)
  /-- `FE_SEND` -/
  | feSend (number port : Byte) (control : Control) (payload : Bytes)
  /-- `ME_BIND` -/
  | meBind
  /-- `ME_UNBIND` -/
  | meUnbind
  /-- `ME_SEND` -/
  | meSend (m : Bytes)
  /-- `ME_RX_BYTE` -/
  | meRxByte (b : Byte)
  /-- `ME_RX_CHUNK` -/
  | meRxChunk (bytes : Bytes)
  /-- `RESET` -/
  | reset
  deriving DecidableEq, Repr

end Sys2Proof
end

