-- ==== Sys2Proof/Machine/Crc.lean ====
section
/-! DEFINITION. The CRC-16/ARC engine of spec/40_codec.md R110 to R116: pure functions on 16-bit values, built from
exclusive-or, logical right shift by one and a test of bit 0 only (R116). -/

namespace Sys2Proof.Machine

/-- The reflected polynomial of CRC-16/ARC, the single constant R111 asks for. PRESUMED (log entry 2): the spec itself
supplies it from general knowledge. -/
def crcPolyReflected : U16 := 0xA001

/-- One iteration of R112: shift right, and add the polynomial when the bit shifted out was 1. -/
def crcShift (c : U16) : U16 :=
  if c.getLsbD 0 then (c >>> 1) ^^^ crcPolyReflected else c >>> 1

/-- `CRC16_STEP` (R112): eight iterations from `c ^ zext_16(b)`. -/
def crcStep (c : U16) (b : Byte) : U16 :=
  crcShift (crcShift (crcShift (crcShift (crcShift (crcShift (crcShift (crcShift (c ^^^ b.setWidth 16))))))))

/-- The fold of `CRC16_STEP` over a byte sequence from a register value (R114, R115 (a)). -/
def crcFold (c : U16) (s : Bytes) : U16 := s.foldl crcStep c

/-- `CRC16` (R114): seed 0, no final exclusive-or. -/
def crcOf (s : Bytes) : U16 := crcFold 0x0000 s

end Sys2Proof.Machine
end

