-- ==== Sys2Proof/Machine/Operands.lean ====
section
/-! DEFINITION. The operand forms of the block: the integer serializers and the assembly of multi-byte fields
(spec/40_codec.md R118 to R120, spec/30_encoding.md R85, R89), the wire codes of the control enum (R84) and the frame
images (R80, R86, R121 to R124). -/

namespace Sys2Proof.Machine

/-- `SER_U16` (R118): most-significant byte first. -/
def serializeU16 (v : U16) : Bytes := [v.extractLsb' 8 8, v.extractLsb' 0 8]

/-- `SER_U64` (R119): eight bytes, most-significant first. -/
def serializeU64 (v : U64) : Bytes :=
  [v.extractLsb' 56 8, v.extractLsb' 48 8, v.extractLsb' 40 8, v.extractLsb' 32 8,
   v.extractLsb' 24 8, v.extractLsb' 16 8, v.extractLsb' 8 8, v.extractLsb' 0 8]

/-- `DES_U16([b0, b1]) = (b0, b1)` (R118), the first byte the more significant. -/
def deserializeU16 (b0 b1 : Byte) : U16 := b0 ++ b1

/-- The CRC register takes a byte in at its low end: `(fe_crc[7:0], b)` (R85, R154). -/
def shiftInU16 (acc : U16) (b : Byte) : U16 := acc.extractLsb' 0 8 ++ b

/-- The length register takes a byte in at its low end: `(me_len[55:0], b)` (R89, R188). -/
def shiftInU64 (acc : U64) (b : Byte) : U64 := acc.extractLsb' 0 56 ++ b

/-- `DES_U64` (R119): the fold of the byte shift from 0. -/
def deserializeU64 (s : Bytes) : U64 := s.foldl shiftInU64 0

/-- The wire code of a control member (R84). -/
def wireCode (c : Config) : Control → Byte
  | .transmission => c.ctrlTransmission
  | .success => c.ctrlSuccess
  | .crcChecksumFailed => c.ctrlCrcFailed
  | .wrongEndByte => c.ctrlWrongEnd
  | .portNotConnect => c.ctrlPortNotConnect

/-- The member a control byte is the code of, if any (R84, R91 (b)). -/
def controlOfCode (c : Config) (b : Byte) : Option Control :=
  if b = c.ctrlTransmission then some .transmission
  else if b = c.ctrlSuccess then some .success
  else if b = c.ctrlCrcFailed then some .crcChecksumFailed
  else if b = c.ctrlWrongEnd then some .wrongEndByte
  else if b = c.ctrlPortNotConnect then some .portNotConnect
  else none

/-- A frame image with a raw control byte, for a payload of at most 255 bytes (R80, R121). -/
def frameImageRaw (c : Config) (number port code : Byte) (payload : Bytes) : Bytes :=
  [c.frameStart, BitVec.ofNat 8 payload.length, number, port, code] ++ payload
    ++ serializeU16 (crcOf payload) ++ [c.frameEnd]

/-- `FRAME_ENCODE` (R121), for a payload of at most 255 bytes. -/
def frameImage (c : Config) (number port : Byte) (k : Control) (payload : Bytes) : Bytes :=
  frameImageRaw c number port (wireCode c k) payload

/-- `REPLY_IMAGE` (R86, R123): the frame image of an empty payload. -/
def replyImage (c : Config) (number port : Byte) (k : Control) : Bytes :=
  frameImage c number port k []

/-- `FRAME_DECODE` (R124): the one-shot inverse of the wire image. `rest` is what follows the five header bytes, so
`|w| = 8 + N` reads `|rest| = N + 3`. -/
def frameOfImage (c : Config) (w : Bytes) : DecodeResult :=
  if w.length < 8 then .malformed
  else match w with
    | w0 :: n :: number :: port :: control :: rest =>
      if w0 ≠ c.frameStart then .malformed
      else if rest.length ≠ n.toNat + 3 then .malformed
      else match rest.drop n.toNat with
        | [hi, lo, last] =>
          let payload := rest.take n.toNat
          let crc := deserializeU16 hi lo
          .decoded { length := n, number := number, port := port, control := control, payload := payload, crc := crc }
            (decide (crcOf payload = crc)) (decide (last = c.frameEnd))
        | _ => .malformed
    | _ => .malformed

end Sys2Proof.Machine
end

