-- ==== Sys2Proof/WellFormed.lean ====
section
/-! DEFINITION. Which terms of `Instr` are operations: the bounds the argument types of spec/30_encoding.md R93 put on
payloads and messages. Every other operand may take every value of its type (R69, R91 (c)). -/

namespace Sys2Proof

/-- `|payload| <= 255` (R21, R121): a longer payload cannot be expressed. -/
def payloadFits (p : Bytes) : Bool := decide (p.length ≤ maxPayload)

/-- `|m| < 2^64` (R28, R183). -/
def messageFits (m : Bytes) : Bool := decide (m.length < messageBound)

/-- The operand bounds of R93. -/
def Instr.wellFormed : Instr → Bool
  | .frameTransmission _ _ p => payloadFits p
  | .frameSuccess _ _ p => payloadFits p
  | .frameCrcFail _ _ p => payloadFits p
  | .frameWrongEnd _ _ p => payloadFits p
  | .framePortNc _ _ p => payloadFits p
  | .replySuccess _ _ => true
  | .replyCrcFail _ _ => true
  | .replyWrongEnd _ _ => true
  | .replyPortNc _ _ => true
  | .msgStart => true
  | .msgAck => true
  | .msgNack => true
  | .msgLength _ => true
  | .msgPayload _ => true
  | .feRxIdleStart _ => true
  | .feRxIdleOther _ => true
  | .feRxLength _ => true
  | .feRxNumber _ => true
  | .feRxPort _ => true
  | .feRxControl _ => true
  | .feRxPayload _ => true
  | .feRxCrc _ => true
  | .feRxEnd _ => true
  | .meRxIdleStart _ => true
  | .meRxIdleAck _ => true
  | .meRxIdleOther _ => true
  | .meRxLength _ => true
  | .meRxPayload _ => true
  | .crc16Step _ _ => true
  | .crc16 _ => true
  | .serU16 _ => true
  | .serU64 _ => true
  | .frameEncode _ _ _ p => payloadFits p
  | .frameDecode _ => true
  | .feConnect _ _ => true
  | .feRxByte _ => true
  | .feRxChunk _ => true
  | .feSend _ _ _ p => payloadFits p
  | .meBind => true
  | .meUnbind => true
  | .meSend m => messageFits m
  | .meRxByte _ => true
  | .meRxChunk _ => true
  | .reset => true

end Sys2Proof
end

