-- ==== Sys2Proof/Decode.lean ====
section
/-! DEFINITION. The decoder and the encoder of operations. An operation reaches the block as one TRANSACTION, a byte
sequence whose first byte is a tag (R40, R41, R93). For the host operations the tag is the number of R93. The
sub-operations of R94 and the wire encodings of R80, R86 and R88 have no number in the spec: their tags 16 to 34 are
this model's (DESIGN CHOICE, log entry 4), and what follows the tag of a wire encoding is its wire image as the spec
gives it. Multi-byte operands are most-significant byte first; a byte sequence is the rest of the transaction. -/

namespace Sys2Proof

open Machine

/-- Why a transaction is no operation. -/
inductive DecodeError where
  /-- no byte at all -/
  | emptyTransaction
  /-- the first byte is no tag -/
  | unknownTag (t : Byte)
  /-- the operand bytes after the tag are too few or too many -/
  | operandCount (t : Byte)
  /-- a control operand that is no member of the enum of R84 -/
  | unknownControl (b : Byte)
  /-- a payload of more than 255 bytes (R121) -/
  | payloadTooLong (n : Nat)
  /-- a message of 2^64 bytes or more (R28) -/
  | messageTooLong
  /-- not a valid frame image (R92) -/
  | notAFrame
  /-- not one of the four reply images (R86) -/
  | notAReply
  /-- none of `ME_START`, `ME_ACK`, `ME_NACK` (R88) -/
  | notAMessageByte (b : Byte)
  deriving DecidableEq, Repr

abbrev Decoded := Except DecodeError Instr

/-- The number that stands for a control member in a host operation's transaction, its place in D0's order. It is no
wire code (log entry 4). -/
def controlIndex : Control → Byte
  | .transmission => 0
  | .success => 1
  | .crcChecksumFailed => 2
  | .wrongEndByte => 3
  | .portNotConnect => 4

/-- The member a control operand stands for. -/
def controlOfIndex (b : Byte) : Option Control :=
  if b = 0 then some .transmission
  else if b = 1 then some .success
  else if b = 2 then some .crcChecksumFailed
  else if b = 3 then some .wrongEndByte
  else if b = 4 then some .portNotConnect
  else none

/-- No operand. -/
def decodeNullary (t : Byte) (i : Instr) : Bytes → Decoded
  | [] => .ok i
  | _ => .error (.operandCount t)

/-- One byte operand. -/
def decodeByteOperand (t : Byte) (i : Byte → Instr) : Bytes → Decoded
  | [b] => .ok (i b)
  | _ => .error (.operandCount t)

/-- A `u16` operand. -/
def decodeU16Operand (t : Byte) (i : U16 → Instr) : Bytes → Decoded
  | [hi, lo] => .ok (i (deserializeU16 hi lo))
  | _ => .error (.operandCount t)

/-- A `u64` operand. -/
def decodeU64Operand (t : Byte) (i : U64 → Instr) (w : Bytes) : Decoded :=
  if w.length = 8 then .ok (i (deserializeU64 w)) else .error (.operandCount t)

/-- The operands of `CRC16_STEP`. -/
def decodeStepOperands (t : Byte) : Bytes → Decoded
  | [hi, lo, b] => .ok (.crc16Step (deserializeU16 hi lo) b)
  | _ => .error (.operandCount t)

/-- The operands of `FE_CONNECT`. -/
def decodeConnectOperands (t : Byte) : Bytes → Decoded
  | port :: name => .ok (.feConnect port { name := name })
  | _ => .error (.operandCount t)

/-- The operands of `FRAME_ENCODE` and `FE_SEND`. -/
def decodeFrameOperands (t : Byte) (i : Byte → Byte → Control → Bytes → Instr) : Bytes → Decoded
  | number :: port :: k :: payload =>
    match controlOfIndex k with
    | some control =>
      if payloadFits payload then .ok (i number port control payload) else .error (.payloadTooLong payload.length)
    | none => .error (.unknownControl k)
  | _ => .error (.operandCount t)

/-- The row of a received frame, by its control member (R84). -/
def frameInstr (number port : Byte) (payload : Bytes) : Control → Instr
  | .transmission => .frameTransmission number port payload
  | .success => .frameSuccess number port payload
  | .crcChecksumFailed => .frameCrcFail number port payload
  | .wrongEndByte => .frameWrongEnd number port payload
  | .portNotConnect => .framePortNc number port payload

/-- A valid frame image (R92) whose control byte is one of the five codes. -/
def decodeFrameImage (c : Config) (w : Bytes) : Decoded :=
  match frameOfImage c w with
  | .decoded f true true =>
    match controlOfCode c f.control with
    | some k => .ok (frameInstr f.number f.port f.payload k)
    | none => .error (.unknownControl f.control)
  | _ => .error .notAFrame

/-- One of the four reply images (R86): a valid frame image with an empty payload and a reply code. -/
def decodeReplyImage (c : Config) (w : Bytes) : Decoded :=
  match frameOfImage c w with
  | .decoded { number := number, port := port, control := code, payload := [], .. } true true =>
    match controlOfCode c code with
    | some .success => .ok (.replySuccess number port)
    | some .crcChecksumFailed => .ok (.replyCrcFail number port)
    | some .wrongEndByte => .ok (.replyWrongEnd number port)
    | some .portNotConnect => .ok (.replyPortNc number port)
    | _ => .error .notAReply
  | _ => .error .notAReply

/-- One of the three message-layer bytes (R88). -/
def decodeMessageByte (c : Config) (t : Byte) : Bytes → Decoded
  | [b] =>
    if b = c.meStart then .ok .msgStart
    else if b = c.meAck then .ok .msgAck
    else if b = c.meNack then .ok .msgNack
    else .error (.notAMessageByte b)
  | _ => .error (.operandCount t)

/-- The message operand of `ME_SEND`. -/
def decodeSendOperand (m : Bytes) : Decoded :=
  if messageFits m then .ok (.meSend m) else .error .messageTooLong

/-- The operand bytes after a tag. -/
def decodeOperands (c : Config) (t : Byte) (w : Bytes) : Decoded :=
  match t.toNat with
  | 0 => decodeStepOperands t w
  | 1 => .ok (.crc16 w)
  | 2 => decodeU16Operand t .serU16 w
  | 3 => decodeU64Operand t .serU64 w
  | 4 => decodeFrameOperands t .frameEncode w
  | 5 => .ok (.frameDecode w)
  | 6 => decodeConnectOperands t w
  | 7 => decodeByteOperand t .feRxByte w
  | 8 => .ok (.feRxChunk w)
  | 9 => decodeFrameOperands t .feSend w
  | 10 => decodeNullary t .meBind w
  | 11 => decodeNullary t .meUnbind w
  | 12 => decodeSendOperand w
  | 13 => decodeByteOperand t .meRxByte w
  | 14 => .ok (.meRxChunk w)
  | 15 => decodeNullary t .reset w
  | 16 => decodeByteOperand t .feRxIdleStart w
  | 17 => decodeByteOperand t .feRxIdleOther w
  | 18 => decodeByteOperand t .feRxLength w
  | 19 => decodeByteOperand t .feRxNumber w
  | 20 => decodeByteOperand t .feRxPort w
  | 21 => decodeByteOperand t .feRxControl w
  | 22 => decodeByteOperand t .feRxPayload w
  | 23 => decodeByteOperand t .feRxCrc w
  | 24 => decodeByteOperand t .feRxEnd w
  | 25 => decodeByteOperand t .meRxIdleStart w
  | 26 => decodeByteOperand t .meRxIdleAck w
  | 27 => decodeByteOperand t .meRxIdleOther w
  | 28 => decodeByteOperand t .meRxLength w
  | 29 => decodeByteOperand t .meRxPayload w
  | 30 => decodeFrameImage c w
  | 31 => decodeReplyImage c w
  | 32 => decodeMessageByte c t w
  | 33 => decodeU64Operand t .msgLength w
  | 34 => .ok (.msgPayload w)
  | _ => .error (.unknownTag t)

/-- The operation a transaction is, total on any bytes. -/
def decode (c : Config) : Bytes → Decoded
  | [] => .error .emptyTransaction
  | t :: w => decodeOperands c t w

/-- The tag of an operation: its number in R93, or the model's own tag. -/
def Instr.tag : Instr → Byte
  | .crc16Step _ _ => 0
  | .crc16 _ => 1
  | .serU16 _ => 2
  | .serU64 _ => 3
  | .frameEncode _ _ _ _ => 4
  | .frameDecode _ => 5
  | .feConnect _ _ => 6
  | .feRxByte _ => 7
  | .feRxChunk _ => 8
  | .feSend _ _ _ _ => 9
  | .meBind => 10
  | .meUnbind => 11
  | .meSend _ => 12
  | .meRxByte _ => 13
  | .meRxChunk _ => 14
  | .reset => 15
  | .feRxIdleStart _ => 16
  | .feRxIdleOther _ => 17
  | .feRxLength _ => 18
  | .feRxNumber _ => 19
  | .feRxPort _ => 20
  | .feRxControl _ => 21
  | .feRxPayload _ => 22
  | .feRxCrc _ => 23
  | .feRxEnd _ => 24
  | .meRxIdleStart _ => 25
  | .meRxIdleAck _ => 26
  | .meRxIdleOther _ => 27
  | .meRxLength _ => 28
  | .meRxPayload _ => 29
  | .frameTransmission _ _ _ => 30
  | .frameSuccess _ _ _ => 30
  | .frameCrcFail _ _ _ => 30
  | .frameWrongEnd _ _ _ => 30
  | .framePortNc _ _ _ => 30
  | .replySuccess _ _ => 31
  | .replyCrcFail _ _ => 31
  | .replyWrongEnd _ _ => 31
  | .replyPortNc _ _ => 31
  | .msgStart => 32
  | .msgAck => 32
  | .msgNack => 32
  | .msgLength _ => 33
  | .msgPayload _ => 34

/-- The operand bytes of a host operation over a frame. -/
def encodeFrameOperands (number port : Byte) (k : Control) (payload : Bytes) : Bytes :=
  [number, port, controlIndex k] ++ payload

/-- The operand bytes of an operation. -/
def Instr.operandBytes (c : Config) : Instr → Bytes
  | .crc16Step v b => serializeU16 v ++ [b]
  | .crc16 s => s
  | .serU16 v => serializeU16 v
  | .serU64 v => serializeU64 v
  | .frameEncode n p k s => encodeFrameOperands n p k s
  | .frameDecode w => w
  | .feConnect p h => p :: h.name
  | .feRxByte b => [b]
  | .feRxChunk s => s
  | .feSend n p k s => encodeFrameOperands n p k s
  | .meBind => []
  | .meUnbind => []
  | .meSend m => m
  | .meRxByte b => [b]
  | .meRxChunk s => s
  | .reset => []
  | .feRxIdleStart b => [b]
  | .feRxIdleOther b => [b]
  | .feRxLength b => [b]
  | .feRxNumber b => [b]
  | .feRxPort b => [b]
  | .feRxControl b => [b]
  | .feRxPayload b => [b]
  | .feRxCrc b => [b]
  | .feRxEnd b => [b]
  | .meRxIdleStart b => [b]
  | .meRxIdleAck b => [b]
  | .meRxIdleOther b => [b]
  | .meRxLength b => [b]
  | .meRxPayload b => [b]
  | .frameTransmission n p s => frameImage c n p .transmission s
  | .frameSuccess n p s => frameImage c n p .success s
  | .frameCrcFail n p s => frameImage c n p .crcChecksumFailed s
  | .frameWrongEnd n p s => frameImage c n p .wrongEndByte s
  | .framePortNc n p s => frameImage c n p .portNotConnect s
  | .replySuccess n p => replyImage c n p .success
  | .replyCrcFail n p => replyImage c n p .crcChecksumFailed
  | .replyWrongEnd n p => replyImage c n p .wrongEndByte
  | .replyPortNc n p => replyImage c n p .portNotConnect
  | .msgStart => [c.meStart]
  | .msgAck => [c.meAck]
  | .msgNack => [c.meNack]
  | .msgLength v => serializeU64 v
  | .msgPayload s => s

/-- The transaction of an operation. -/
def encode (c : Config) (i : Instr) : Bytes := i.tag :: i.operandBytes c

/-- The low `n` bytes of a number, least-significant first: byte k of a transaction is bits 8k+7 to 8k. -/
def bytesOfNat : Nat → Nat → Bytes
  | 0, _ => []
  | n + 1, w => BitVec.ofNat 8 w :: bytesOfNat n (w / 256)

/-- The first of the words `w`, `w ++ [0]`, …, with at most `fuel` operand bytes of zero after it, that decodes; `w`
itself if none does. -/
def padToDecode (c : Config) : Nat → Bytes → Option Bytes
  | 0, w => match decode c w with
    | .ok _ => some w
    | .error _ => none
  | fuel + 1, w => match decode c w with
    | .ok _ => some w
    | .error _ => padToDecode c fuel (w ++ [0])

/-- Whether a transaction is an operation. -/
def isOperation (c : Config) (w : Bytes) : Bool :=
  match decode c w with
  | .ok _ => true
  | .error _ => false

/-- The transaction of a bare wire word, with no tag before it: a reply image (R86), a message-layer byte (R88), a frame
image (R80), or the start marker as a received byte (R146), in this order (log entry 4). -/
def wireTransaction (c : Config) (w : Bytes) : Option Bytes :=
  if isOperation c (31 :: w) then some (31 :: w)
  else if isOperation c (32 :: w) then some (32 :: w)
  else if isOperation c (30 :: w) then some (30 :: w)
  else if w = [c.frameStart] then some (16 :: w)
  else none

/-- The transaction whose bits are `w`: `nbits` bits in whole bytes, byte k from bits 8k+7 to 8k, and the fewest operand
bytes of zero above them that make it an operation; where none do, the bytes as a bare wire word; where they are none,
the bytes themselves. -/
def transactionOfWord (c : Config) (nbits w : Nat) : Bytes :=
  let bytes := bytesOfNat ((nbits + 7) / 8) w
  match padToDecode c 9 bytes with
  | some x => x
  | none => (wireTransaction c bytes).getD bytes

/-- The operation this decoder reads from an instruction word, in the configuration that `State.reset` carries. -/
def decodeTableWord (nbits w : Nat) : Option Instr :=
  match decode Config.configured (transactionOfWord Config.configured nbits w) with
  | .ok i => some i
  | .error _ => none

end Sys2Proof
end

