-- ==== Sys2Proof/Machine/State.lean ====
section
/-! DEFINITION. The architectural state of the block (spec/10_state.md R20 to R36), its effect lists (R42), its reset
values (R44), and the reasons a step can stop. -/

namespace Sys2Proof.Machine

/-- `fe_state` (R24). -/
inductive FeState where
  | idle
  | length
  | number
  | port
  | control
  | payload
  | crc
  | endByte
  deriving DecidableEq, Repr

/-- The port and handler registry `fe_reg` (R26): 256 slots indexed by port. Held as the occupied slots, in rising
order of port, so that equal registries are equal data; a port not listed is `None`. -/
abbrev Registry := List (Byte × HandlerId)

/-- The Frame Engine state of R20. -/
structure FrameEngine where
  /-- `fe_state` (R24) -/
  state : FeState
  /-- `fe_len` (R22) -/
  len : Byte
  /-- `fe_num` (R22) -/
  num : Byte
  /-- `fe_port` (R22) -/
  port : Byte
  /-- `fe_ctrl` (R22), the raw byte -/
  ctrl : Byte
  /-- `fe_payload` (R25) -/
  payload : Bytes
  /-- `fe_crc` (R22) -/
  crc : U16
  /-- `fe_pay_rem` (R23) -/
  payRem : Byte
  /-- `fe_crc_rem` (R23) -/
  crcRem : BitVec 2
  /-- `fe_reg` (R26) -/
  reg : Registry
  deriving DecidableEq, Repr

/-- The Message Engine state of R20. -/
structure MessageEngine where
  /-- `me_bound` (R34) -/
  bound : Bool
  /-- `me_ts`, D0's `transmissionStarted` (R29) -/
  ts : Bool
  /-- `me_lk`, D0's `lengthKnown` (R29) -/
  lk : Bool
  /-- `me_cnt` (R30) -/
  cnt : BitVec 4
  /-- `me_len` (R30) -/
  len : U64
  /-- `me_rxbuf` (R32) -/
  rxbuf : Bytes
  /-- `me_txq` (R33), head first -/
  txq : List Bytes
  deriving DecidableEq, Repr

/-- The diagnostic codes of R224 and R236. -/
inductive Diag where
  /-- `DIAG_FE_DUP_CONNECT` -/
  | feDupConnect
  /-- `DIAG_ME_SEND_UNBOUND` -/
  | meSendUnbound
  /-- `DIAG_ME_SEND_BUSY` -/
  | meSendBusy
  /-- `DIAG_ME_SPURIOUS_ACK` -/
  | meSpuriousAck
  deriving DecidableEq, Repr

/-- An element of an effect list (R42), on the port of R40 or R41 that it appears on. -/
inductive Effect where
  /-- `Tx(b)` on `fe_tx` -/
  | feTx (b : Byte)
  /-- `Deliver(h, f)` on `fe_deliver` -/
  | feDeliver (h : HandlerId) (f : Frame)
  /-- `Diag(d)` on `fe_diag` -/
  | feDiag (d : Diag)
  /-- `Tx(b)` on `me_tx` -/
  | meTx (b : Byte)
  /-- `Deliver(bytes)` on `me_deliver` -/
  | meDeliver (bytes : Bytes)
  /-- `Diag(d)` on `me_diag` -/
  | meDiag (d : Diag)
  deriving DecidableEq, Repr

/-- What a codec operation returns to its caller (R43). -/
inductive CodecResult where
  /-- of `CRC16_STEP` and `CRC16` -/
  | word (v : U16)
  /-- of `SER_U16`, `SER_U64` and `FRAME_ENCODE` -/
  | bytes (s : Bytes)
  /-- of `FRAME_DECODE` -/
  | frame (r : DecodeResult)
  deriving DecidableEq, Repr

/-- The machine. `fe` and `me` are the architectural state of R20; `cfg` are the constants of R5, which no operation
writes (R39). The other three fields are the model's own (log entry 6): `pending`, the schedule of operations the
environment has chosen (R66), oldest first; `trace`, the effect lists of the operations so far, joined in order (R42,
R70); `ret`, what the last codec operation returned (R43). No operation reads `trace` or `ret`. -/
structure State where
  cfg : Config
  fe : FrameEngine
  me : MessageEngine
  pending : List Bytes
  trace : List Effect
  ret : Option CodecResult
  deriving DecidableEq, Repr

/-- The block raises no local fault (R220: "every operation is total"), so this type has no constructor: no step can
stop with a fault. -/
inductive Fault where
  deriving DecidableEq, Repr

/-- Why a step has no meaning. None is raised by a well-formed operation in a machine without a receive buffer cap. -/
inductive Refusal where
  /-- Raised by no arm of `exec`: every operation has its meaning. Safe. -/
  | notModelled (mnemonic : String)
  /-- Raised by `step` when the environment's next transaction is no operation of R93 or R94, a move the environment
  does not have. Safe: the machine stops. -/
  | notAnOperation (why : DecodeError)
  /-- Raised by the operations that take a payload, when it has more than 255 bytes: such an operation cannot be
  expressed (R121, U8). `step` never meets it, since `decode` answers well-formed operations only. Safe. -/
  | payloadTooLong
  /-- Raised by `ME_SEND`, when the message has 2^64 bytes or more: such an operation cannot be expressed (R28, R183).
  `step` never meets it. Safe. -/
  | messageTooLong
  /-- Raised by `ME_RX.LENGTH` at the eighth length byte, when the configuration has a receive buffer cap and the
  declared length exceeds it (decision D18, U4: "refuse", never truncate). Safe. -/
  | rxbufCapExceeded (declared : U64)
  deriving DecidableEq, Repr

/-- The Frame Engine after reset (R44). -/
def FrameEngine.initial : FrameEngine :=
  { state := .idle, len := 0, num := 0, port := 0, ctrl := 0, payload := [], crc := 0x0000, payRem := 0, crcRem := 2
    reg := [] }

/-- The Message Engine after reset (R44). -/
def MessageEngine.initial : MessageEngine :=
  { bound := false, ts := false, lk := false, cnt := 0, len := 0, rxbuf := [], txq := [] }

/-- The machine right after reset in a given configuration (R44), with no operation pending and no effect produced. -/
def State.initial (c : Config) : State :=
  { cfg := c, fe := FrameEngine.initial, me := MessageEngine.initial, pending := [], trace := [], ret := none }

/-- The machine right after reset. The configuration it carries is log entry 1. -/
def State.reset : State := State.initial Config.configured

end Sys2Proof.Machine
end

