-- ==== Sys2Proof/Machine/Flags.lean ====
section
/-! DEFINITION. The flags and predicates of the block: the ME phases (spec/10_state.md R31), the guard of `ME_SEND`
(spec/42_message_engine.md R183), the selection of sub-operations (spec/30_encoding.md R94), the receive buffer cap
(decision D18), and quiescence (spec/70_reset_and_hazards.md R264). The FE has no flags. -/

namespace Sys2Proof.Machine

/-- `me_tx_pending` (R31): a Start was written and its Ack not yet consumed. -/
def MessageEngine.txPending (m : MessageEngine) : Bool := !m.txq.isEmpty

/-- The busy condition of `ME_SEND` (R183): an inbound or an outbound handshake is in progress. -/
def MessageEngine.busy (m : MessageEngine) : Bool := m.ts || m.txPending

/-- Phase IDLE of a bound engine (R31, R184). -/
def MessageEngine.inIdle (m : MessageEngine) : Bool := m.bound && !m.ts

/-- Phase RX_LENGTH of a bound engine (R31, R184). -/
def MessageEngine.inLength (m : MessageEngine) : Bool := m.bound && (m.ts && !m.lk)

/-- Phase RX_PAYLOAD of a bound engine (R31, R184). -/
def MessageEngine.inPayload (m : MessageEngine) : Bool := m.bound && (m.ts && m.lk)

/-- The declared length exceeds the receive buffer's capacity (U4, D18); never so when the capacity is unbounded. -/
def capExceeded (c : Config) (declared : U64) : Bool :=
  match c.meRxbufCap with
  | none => false
  | some cap => decide (cap < declared.toNat)

/-- `|me_rxbuf| = me_len`, the test of R189, on u64 (R126 (g)). -/
def MessageEngine.filled (m : MessageEngine) : Bool := decide (m.rxbuf.length = m.len.toNat)

/-- The FE is quiescent (R264). -/
def FrameEngine.quiescent (f : FrameEngine) : Bool := decide (f.state = .idle)

/-- The ME is quiescent (R264). -/
def MessageEngine.quiescent (m : MessageEngine) : Bool := !m.ts && m.txq.isEmpty

end Sys2Proof.Machine
end

