-- ==== Sys2Proof/Machine/Ops.lean ====
section
/-! DEFINITION. The named operations the meanings are written over: the effect primitives of spec/00_scope.md R10, the
registry (spec/10_state.md R26), the accumulator clear (spec/41_frame_engine.md R145), reject entry
(spec/60_exceptions.md R228), and the clear of message completion (spec/42_message_engine.md R190). -/

namespace Sys2Proof.Machine

/-- The outcome of an operation. -/
abbrev Result := Host.Outcome State Fault Refusal

/-- Appends to the effect list (R10, R42). -/
def State.emit (s : State) (es : List Effect) : State := { s with trace := s.trace ++ es }

/-- `tx` on `fe_tx` (R10). -/
def State.feTransmit (s : State) (bytes : Bytes) : State := s.emit (bytes.map Effect.feTx)

/-- `deliver(h, f)` on `fe_deliver` (R10). -/
def State.feDeliver (s : State) (h : HandlerId) (f : Frame) : State := s.emit [.feDeliver h f]

/-- `drop(diag)` of the FE (R10, R224): the diagnostic, and no other change. -/
def State.feDrop (s : State) (d : Diag) : State := s.emit [.feDiag d]

/-- `tx` on `me_tx` (R10). -/
def State.meTransmit (s : State) (bytes : Bytes) : State := s.emit (bytes.map Effect.meTx)

/-- `deliver(bytes)` on `me_deliver` (R10). -/
def State.meDeliver (s : State) (bytes : Bytes) : State := s.emit [.meDeliver bytes]

/-- `drop(diag)` of the ME (R10, R224). -/
def State.meDrop (s : State) (d : Diag) : State := s.emit [.meDiag d]

/-- Hands a codec result to the caller (R43). -/
def State.answer (s : State) (r : CodecResult) : State := { s with ret := some r }

/-- Writes the FE state. -/
def State.withFe (s : State) (f : FrameEngine) : State := { s with fe := f }

/-- Writes the ME state. -/
def State.withMe (s : State) (m : MessageEngine) : State := { s with me := m }

/-- `fe_reg[p]` (R10, R26). -/
def Registry.slot : Registry → Byte → Option HandlerId
  | [], _ => none
  | (q, h) :: r, p => if p = q then some h else slot r p

/-- `fe_reg[p] <- Some(h)` (R10, R26), which keeps the slots in rising order of port. -/
def Registry.fill : Registry → Byte → HandlerId → Registry
  | [], p, h => [(p, h)]
  | (q, k) :: r, p, h =>
    if p = q then (p, h) :: r
    else if p.toNat < q.toNat then (p, h) :: (q, k) :: r
    else (q, k) :: fill r p h

/-- `fe_clear()` (R145): the accumulator clear. `fe_state` and `fe_reg` are not part of it. -/
def FrameEngine.clear (f : FrameEngine) : FrameEngine :=
  { f with len := 0, num := 0, port := 0, ctrl := 0, payload := [], crc := 0x0000, payRem := 0, crcRem := 2 }

/-- `fe_clear(); fe_state <- IDLE` (R158). -/
def State.feFinish (s : State) : State := s.withFe { s.fe.clear with state := .idle }

/-- A reply frame (R160): the eight bytes of `REPLY_IMAGE`, contiguous on `fe_tx`. -/
def State.feReply (s : State) (number port : Byte) (k : Control) : State :=
  s.feTransmit (replyImage s.cfg number port k)

/-- `raise Reject(code)`, the reject entry of the FE (R228), shared by R221 to R223: the reply with the received number
and port, then the accumulator clear and IDLE, and nothing else. Nothing is saved, and there is no return (R229). -/
def State.feReject (s : State) (k : Control) : State := (s.feReply s.fe.num s.fe.port k).feFinish

/-- The reject entry of the ME (R225, R228): the byte `ME_NACK`, and nothing else. -/
def State.meReject (s : State) : State := s.meTransmit [s.cfg.meNack]

/-- The frame the accumulator holds (R157). -/
def FrameEngine.frame (f : FrameEngine) : Frame :=
  { length := f.len, number := f.num, port := f.port, control := f.ctrl, payload := f.payload, crc := f.crc }

/-- `me_complete()` (R190): delivers the receive buffer and returns to the one idle state. `me_txq` is not touched. -/
def State.meComplete (s : State) : State :=
  (s.meDeliver s.me.rxbuf).withMe { s.me with ts := false, lk := false, cnt := 0, len := 0, rxbuf := [] }

/-- Sequential composition of operations: the second runs in the state the first leaves (R66). -/
def andThen (r : Result) (k : State → Result) : Result :=
  match r with
  | .next s => k s
  | .fault x => .fault x
  | .refused x => .refused x

end Sys2Proof.Machine
end

