-- ==== Sys2Proof/Machine/Block.lean ====
section
/-! DEFINITION. The operation of the block as a whole (spec/70_reset_and_hazards.md R260). -/

namespace Sys2Proof.Machine

/-- `RESET` (R260): every piece of state at its value of R44, and an empty effect list. The configuration keeps its
configured values, and the effects and operations of the environment are not state (R20). -/
def execReset (s : State) : Result := .next ((s.withFe FrameEngine.initial).withMe MessageEngine.initial)

end Sys2Proof.Machine
end

