-- ==== Sys2Proof/Machine/Codec.lean ====
section
/-! DEFINITION. The codec operations (spec/40_codec.md): pure functions whose result is handed to the caller. They read
their arguments only (and the configuration), and write no state (R43, R45). -/

namespace Sys2Proof.Machine

/-- `CRC16_STEP` (R112). -/
def execCrc16Step (c : U16) (b : Byte) (s : State) : Result := .next (s.answer (.word (crcStep c b)))

/-- `CRC16` (R114). -/
def execCrc16 (bytes : Bytes) (s : State) : Result := .next (s.answer (.word (crcOf bytes)))

/-- `SER_U16` (R118). -/
def execSerU16 (v : U16) (s : State) : Result := .next (s.answer (.bytes (serializeU16 v)))

/-- `SER_U64` (R119). -/
def execSerU64 (v : U64) (s : State) : Result := .next (s.answer (.bytes (serializeU64 v)))

/-- `FRAME_ENCODE` (R121). A payload of more than 255 bytes cannot be expressed, and is never truncated. -/
def execFrameEncode (number port : Byte) (k : Control) (payload : Bytes) (s : State) : Result :=
  if payloadFits payload then .next (s.answer (.bytes (frameImage s.cfg number port k payload)))
  else .refused .payloadTooLong

/-- `FRAME_DECODE` (R124). -/
def execFrameDecode (w : Bytes) (s : State) : Result := .next (s.answer (.frame (frameOfImage s.cfg w)))

end Sys2Proof.Machine
end

