-- ==== Sys2Proof/Machine/FrameEngine.lean ====
section
/-! DEFINITION. The Frame Engine (spec/41_frame_engine.md): registration, the byte-fed transition function of R144, one
definition for each of its rows, and sending. Every row is total; only the END row produces effects. -/

namespace Sys2Proof.Machine

/-- R146: the start marker, seen in IDLE. The byte itself is not stored. -/
def feIdleStart (s : State) : State := s.withFe { s.fe.clear with state := .length }

/-- R147: any other byte in IDLE is silently ignored. -/
def feIdleOther (s : State) : State := s

/-- R148: the payload length. -/
def feLength (b : Byte) (s : State) : State :=
  s.withFe { s.fe with len := b, payRem := b, state := .number }

/-- R149: the frame number. -/
def feNumber (b : Byte) (s : State) : State := s.withFe { s.fe with num := b, state := .port }

/-- R150: the port. The registry is not consulted. -/
def fePort (b : Byte) (s : State) : State := s.withFe { s.fe with port := b, state := .control }

/-- R151: the control byte, stored raw; an empty payload is skipped. -/
def feControl (b : Byte) (s : State) : State :=
  s.withFe { s.fe with ctrl := b, state := if s.fe.len = 0 then .crc else .payload }

/-- R152: one payload byte. `fe_pay_rem` is a `u8`; it never wraps in a state of R27 (log entry 8). -/
def fePayload (b : Byte) (s : State) : State :=
  s.withFe { s.fe with
    payload := s.fe.payload ++ [b]
    payRem := s.fe.payRem - 1
    state := if s.fe.payRem - 1 = 0 then .crc else s.fe.state }

/-- R154: one CRC byte, most-significant first. -/
def feCrc (b : Byte) (s : State) : State :=
  s.withFe { s.fe with
    crc := shiftInU16 s.fe.crc b
    crcRem := s.fe.crcRem - 1
    state := if s.fe.crcRem - 1 = 0 then .endByte else s.fe.state }

/-- R156: the END policy, first match wins (R227). The registry is read now (R72). A valid frame whose control is not
Transmission is absorbed (R162). Whatever branch runs, the engine ends in IDLE with a clear accumulator (R158), and `b`
is not looked at again. -/
def feEnd (b : Byte) (s : State) : State :=
  match s.fe.reg.slot s.fe.port with
  | none => s.feReject .portNotConnect
  | some h =>
    if crcOf s.fe.payload ≠ s.fe.crc then s.feReject .crcChecksumFailed
    else if b ≠ s.cfg.frameEnd then s.feReject .wrongEndByte
    else if s.fe.ctrl = s.cfg.ctrlTransmission then
      ((s.feReply s.fe.num s.fe.port .success).feDeliver h s.fe.frame).feFinish
    else s.feFinish

/-- `FE_RX_BYTE` (R144): one row, selected by `fe_state` and, in IDLE only, by the byte. -/
def feReceive (b : Byte) (s : State) : State :=
  match s.fe.state with
  | .idle => if b = s.cfg.frameStart then feIdleStart s else feIdleOther s
  | .length => feLength b s
  | .number => feNumber b s
  | .port => fePort b s
  | .control => feControl b s
  | .payload => fePayload b s
  | .crc => feCrc b s
  | .endByte => feEnd b s

/-- `FE_RX_CHUNK` (R65, R143): the byte operations in order, their effect lists joined. -/
def feReceiveAll : Bytes → State → State
  | [], s => s
  | b :: bs, s => feReceiveAll bs (feReceive b s)

/-- `FE_CONNECT` (R141): first wins. -/
def execFeConnect (port : Byte) (h : HandlerId) (s : State) : Result :=
  match s.fe.reg.slot port with
  | none => .next (s.withFe { s.fe with reg := s.fe.reg.fill port h })
  | some _ => .next (s.feDrop .feDupConnect)

/-- `FE_RX_BYTE` (R144). -/
def execFeRxByte (b : Byte) (s : State) : Result := .next (feReceive b s)

/-- `FE_RX_CHUNK` (R143). -/
def execFeRxChunk (bytes : Bytes) (s : State) : Result := .next (feReceiveAll bytes s)

/-- `FE_SEND` (R164): the frame image on `fe_tx`, in any state, with no state written. -/
def execFeSend (number port : Byte) (k : Control) (payload : Bytes) (s : State) : Result :=
  if payloadFits payload then .next (s.feTransmit (frameImage s.cfg number port k payload))
  else .refused .payloadTooLong

/-! The sub-operations of R94. Each is the arrival of one byte. Where the state and the byte select the row, its rule
runs; where they select another, the byte is handled by the row they select, since decoding is by state first (R90; log
entry 7). -/

/-- `FE_RX.IDLE_START` (R146). -/
def execFeRxIdleStart (b : Byte) (s : State) : Result :=
  if s.fe.state = .idle ∧ b = s.cfg.frameStart then .next (feIdleStart s) else .next (feReceive b s)

/-- `FE_RX.IDLE_OTHER` (R147). -/
def execFeRxIdleOther (b : Byte) (s : State) : Result :=
  if s.fe.state = .idle ∧ b ≠ s.cfg.frameStart then .next (feIdleOther s) else .next (feReceive b s)

/-- `FE_RX.LENGTH` (R148). -/
def execFeRxLength (b : Byte) (s : State) : Result :=
  if s.fe.state = .length then .next (feLength b s) else .next (feReceive b s)

/-- `FE_RX.NUMBER` (R149). -/
def execFeRxNumber (b : Byte) (s : State) : Result :=
  if s.fe.state = .number then .next (feNumber b s) else .next (feReceive b s)

/-- `FE_RX.PORT` (R150). -/
def execFeRxPort (b : Byte) (s : State) : Result :=
  if s.fe.state = .port then .next (fePort b s) else .next (feReceive b s)

/-- `FE_RX.CONTROL` (R151). -/
def execFeRxControl (b : Byte) (s : State) : Result :=
  if s.fe.state = .control then .next (feControl b s) else .next (feReceive b s)

/-- `FE_RX.PAYLOAD` (R152). -/
def execFeRxPayload (b : Byte) (s : State) : Result :=
  if s.fe.state = .payload then .next (fePayload b s) else .next (feReceive b s)

/-- `FE_RX.CRC` (R154). -/
def execFeRxCrc (b : Byte) (s : State) : Result :=
  if s.fe.state = .crc then .next (feCrc b s) else .next (feReceive b s)

/-- `FE_RX.END` (R156). -/
def execFeRxEnd (b : Byte) (s : State) : Result :=
  if s.fe.state = .endByte then .next (feEnd b s) else .next (feReceive b s)

end Sys2Proof.Machine
end

