-- ==== Sys2Proof/Machine/MessageEngine.lean ====
section
/-! DEFINITION. The Message Engine (spec/42_message_engine.md): binding, sending under the handshake guard, and the
byte-fed protocol table of R184, one definition for each of its rows. -/

namespace Sys2Proof.Machine

/-- R185: the Start byte in phase IDLE, whether or not a message is queued. -/
def meIdleStart (s : State) : State :=
  (s.withMe { s.me with ts := true, lk := false, cnt := 0, len := 0, rxbuf := [] }).meTransmit [s.cfg.meAck]

/-- R186: the Ack byte in phase IDLE: the head of the FIFO goes out, its length first. -/
def meIdleAck (s : State) : State :=
  match s.me.txq with
  | m :: q => (s.withMe { s.me with txq := q }).meTransmit (serializeU64 (BitVec.ofNat 64 m.length) ++ m)
  | [] => s.meDrop .meSpuriousAck

/-- R187: any other byte in phase IDLE. -/
def meIdleOther (s : State) : State := s.meReject

/-- R188: one length byte. At the eighth the length is known; a length of 0 completes at once (decision D5), and one
above the receive buffer's capacity, if there is a capacity, has no successor (decision D18). -/
def meLength (b : Byte) (s : State) : Result :=
  let len := shiftInU64 s.me.len b
  let cnt := s.me.cnt + 1
  let s1 := s.withMe { s.me with len := len, cnt := cnt }
  if cnt = 8 then
    if capExceeded s.cfg len then .refused (.rxbufCapExceeded len)
    else
      let s2 := s1.withMe { s1.me with lk := true, rxbuf := [] }
      if len = 0 then .next s2.meComplete else .next s2
  else .next s1

/-- R189: one payload byte. -/
def mePayload (b : Byte) (s : State) : State :=
  let s1 := s.withMe { s.me with rxbuf := s.me.rxbuf ++ [b] }
  if s1.me.filled then s1.meComplete else s1

/-- `ME_RX_BYTE` (R184): ignored when unbound; otherwise one row, selected by `me_ts`, `me_lk` and, when idle, by the
byte, tested in the order Start, Ack, other. -/
def meReceive (b : Byte) (s : State) : Result :=
  match s.me.bound, s.me.ts, s.me.lk with
  | false, _, _ => .next s
  | true, false, _ =>
    if b = s.cfg.meStart then .next (meIdleStart s)
    else if b = s.cfg.meAck then .next (meIdleAck s)
    else .next (meIdleOther s)
  | true, true, false => meLength b s
  | true, true, true => .next (mePayload b s)

/-- `ME_RX_CHUNK` (R65, R191): the byte operations in order, their effect lists joined. -/
def meReceiveAll : Bytes → State → Result
  | [], s => .next s
  | b :: bs, s => andThen (meReceive b s) (meReceiveAll bs)

/-- `ME_BIND` (R181). -/
def execMeBind (s : State) : Result := .next (s.withMe { s.me with bound := true })

/-- `ME_UNBIND` (R182): every ME register takes its reset value. -/
def execMeUnbind (s : State) : Result := .next (s.withMe MessageEngine.initial)

/-- `ME_SEND` (R183): the binding is tested before the busy condition (R227). -/
def execMeSend (m : Bytes) (s : State) : Result :=
  if messageFits m then
    if s.me.bound = false then .next (s.meDrop .meSendUnbound)
    else if s.me.busy then .next (s.meDrop .meSendBusy)
    else .next ((s.meTransmit [s.cfg.meStart]).withMe { s.me with txq := s.me.txq ++ [m] })
  else .refused .messageTooLong

/-- `ME_RX_BYTE` (R184). -/
def execMeRxByte (b : Byte) (s : State) : Result := meReceive b s

/-- `ME_RX_CHUNK` (R191). -/
def execMeRxChunk (bytes : Bytes) (s : State) : Result := meReceiveAll bytes s

/-! The sub-operations of R94: the arrival of one byte, handled by the named row where it is selected, and otherwise by
the row that is (R90; log entry 7). -/

/-- `ME_RX.IDLE_START` (R185). -/
def execMeRxIdleStart (b : Byte) (s : State) : Result :=
  if s.me.inIdle ∧ b = s.cfg.meStart then .next (meIdleStart s) else meReceive b s

/-- `ME_RX.IDLE_ACK` (R186). -/
def execMeRxIdleAck (b : Byte) (s : State) : Result :=
  if s.me.inIdle ∧ b ≠ s.cfg.meStart ∧ b = s.cfg.meAck then .next (meIdleAck s) else meReceive b s

/-- `ME_RX.IDLE_OTHER` (R187). -/
def execMeRxIdleOther (b : Byte) (s : State) : Result :=
  if s.me.inIdle ∧ b ≠ s.cfg.meStart ∧ b ≠ s.cfg.meAck then .next (meIdleOther s) else meReceive b s

/-- `ME_RX.LENGTH` (R188). -/
def execMeRxLength (b : Byte) (s : State) : Result :=
  if s.me.inLength then meLength b s else meReceive b s

/-- `ME_RX.PAYLOAD` (R189). -/
def execMeRxPayload (b : Byte) (s : State) : Result :=
  if s.me.inPayload then .next (mePayload b s) else meReceive b s

end Sys2Proof.Machine
end

