-- ==== Sys2Proof/Machine/Wire.lean ====
section
/-! DEFINITION. The wire encodings of spec/opcode_table.json (R80, R86, R88). The table gives each row the rule of its
effect: a frame (R156, R162) is what the FE does on receiving its image, the pseudo-operation `FE_RX_FRAME` of R100; a
reply (R160) is its emission on `fe_tx`; a message-layer encoding (R185 to R189) is what the ME does on receiving it.
Log entry 5. -/

namespace Sys2Proof.Machine

/-- The reception of a complete frame (R80, R100): its image, byte by byte. -/
def receiveFrame (number port : Byte) (k : Control) (payload : Bytes) (s : State) : Result :=
  if payloadFits payload then .next (feReceiveAll (frameImage s.cfg number port k payload) s)
  else .refused .payloadTooLong

/-- `FRAME.TRANSMISSION` (R156). -/
def execFrameTransmission (number port : Byte) (payload : Bytes) (s : State) : Result :=
  receiveFrame number port .transmission payload s

/-- `FRAME.SUCCESS` (R162). -/
def execFrameSuccess (number port : Byte) (payload : Bytes) (s : State) : Result :=
  receiveFrame number port .success payload s

/-- `FRAME.CRCFAIL` (R162). -/
def execFrameCrcFail (number port : Byte) (payload : Bytes) (s : State) : Result :=
  receiveFrame number port .crcChecksumFailed payload s

/-- `FRAME.WRONGEND` (R162). -/
def execFrameWrongEnd (number port : Byte) (payload : Bytes) (s : State) : Result :=
  receiveFrame number port .wrongEndByte payload s

/-- `FRAME.PORTNC` (R162). -/
def execFramePortNc (number port : Byte) (payload : Bytes) (s : State) : Result :=
  receiveFrame number port .portNotConnect payload s

/-- `REPLY.SUCCESS` (R160). -/
def execReplySuccess (number port : Byte) (s : State) : Result := .next (s.feReply number port .success)

/-- `REPLY.CRCFAIL` (R160). -/
def execReplyCrcFail (number port : Byte) (s : State) : Result := .next (s.feReply number port .crcChecksumFailed)

/-- `REPLY.WRONGEND` (R160). -/
def execReplyWrongEnd (number port : Byte) (s : State) : Result := .next (s.feReply number port .wrongEndByte)

/-- `REPLY.PORTNC` (R160). -/
def execReplyPortNc (number port : Byte) (s : State) : Result := .next (s.feReply number port .portNotConnect)

/-- `MSG.START` (R88, R185): the byte `ME_START` arrives. -/
def execMsgStart (s : State) : Result := meReceive s.cfg.meStart s

/-- `MSG.ACK` (R88, R186): the byte `ME_ACK` arrives. -/
def execMsgAck (s : State) : Result := meReceive s.cfg.meAck s

/-- `MSG.NACK` (R88, R187): the byte `ME_NACK` arrives. -/
def execMsgNack (s : State) : Result := meReceive s.cfg.meNack s

/-- `MSG.LENGTH` (R89, R188): the eight bytes of a length arrive. -/
def execMsgLength (len : U64) (s : State) : Result := meReceiveAll (serializeU64 len) s

/-- `MSG.PAYLOAD` (R87, R189): the bytes of a message body arrive. -/
def execMsgPayload (bytes : Bytes) (s : State) : Result := meReceiveAll bytes s

end Sys2Proof.Machine
end

