-- ==== Sys2Proof/Machine/Dispatch.lean ====
section
/-! DEFINITION. The meaning of every operation: one arm per constructor of `Instr`. -/

namespace Sys2Proof.Machine

def exec (i : Instr) (s : State) : Host.Outcome State Fault Refusal :=
  match i with
  | .frameTransmission n p d => Sys2Proof.Machine.execFrameTransmission n p d s
  | .frameSuccess n p d => Sys2Proof.Machine.execFrameSuccess n p d s
  | .frameCrcFail n p d => Sys2Proof.Machine.execFrameCrcFail n p d s
  | .frameWrongEnd n p d => Sys2Proof.Machine.execFrameWrongEnd n p d s
  | .framePortNc n p d => Sys2Proof.Machine.execFramePortNc n p d s
  | .replySuccess n p => Sys2Proof.Machine.execReplySuccess n p s
  | .replyCrcFail n p => Sys2Proof.Machine.execReplyCrcFail n p s
  | .replyWrongEnd n p => Sys2Proof.Machine.execReplyWrongEnd n p s
  | .replyPortNc n p => Sys2Proof.Machine.execReplyPortNc n p s
  | .msgStart => Sys2Proof.Machine.execMsgStart s
  | .msgAck => Sys2Proof.Machine.execMsgAck s
  | .msgNack => Sys2Proof.Machine.execMsgNack s
  | .msgLength len => Sys2Proof.Machine.execMsgLength len s
  | .msgPayload d => Sys2Proof.Machine.execMsgPayload d s
  | .feRxIdleStart b => Sys2Proof.Machine.execFeRxIdleStart b s
  | .feRxIdleOther b => Sys2Proof.Machine.execFeRxIdleOther b s
  | .feRxLength b => Sys2Proof.Machine.execFeRxLength b s
  | .feRxNumber b => Sys2Proof.Machine.execFeRxNumber b s
  | .feRxPort b => Sys2Proof.Machine.execFeRxPort b s
  | .feRxControl b => Sys2Proof.Machine.execFeRxControl b s
  | .feRxPayload b => Sys2Proof.Machine.execFeRxPayload b s
  | .feRxCrc b => Sys2Proof.Machine.execFeRxCrc b s
  | .feRxEnd b => Sys2Proof.Machine.execFeRxEnd b s
  | .meRxIdleStart b => Sys2Proof.Machine.execMeRxIdleStart b s
  | .meRxIdleAck b => Sys2Proof.Machine.execMeRxIdleAck b s
  | .meRxIdleOther b => Sys2Proof.Machine.execMeRxIdleOther b s
  | .meRxLength b => Sys2Proof.Machine.execMeRxLength b s
  | .meRxPayload b => Sys2Proof.Machine.execMeRxPayload b s
  | .crc16Step c b => Sys2Proof.Machine.execCrc16Step c b s
  | .crc16 d => Sys2Proof.Machine.execCrc16 d s
  | .serU16 v => Sys2Proof.Machine.execSerU16 v s
  | .serU64 v => Sys2Proof.Machine.execSerU64 v s
  | .frameEncode n p k d => Sys2Proof.Machine.execFrameEncode n p k d s
  | .frameDecode w => Sys2Proof.Machine.execFrameDecode w s
  | .feConnect p h => Sys2Proof.Machine.execFeConnect p h s
  | .feRxByte b => Sys2Proof.Machine.execFeRxByte b s
  | .feRxChunk d => Sys2Proof.Machine.execFeRxChunk d s
  | .feSend n p k d => Sys2Proof.Machine.execFeSend n p k d s
  | .meBind => Sys2Proof.Machine.execMeBind s
  | .meUnbind => Sys2Proof.Machine.execMeUnbind s
  | .meSend m => Sys2Proof.Machine.execMeSend m s
  | .meRxByte b => Sys2Proof.Machine.execMeRxByte b s
  | .meRxChunk d => Sys2Proof.Machine.execMeRxChunk d s
  | .reset => Sys2Proof.Machine.execReset s

end Sys2Proof.Machine
end

