-- ==== Sys2Proof/Machine/Step.lean ====
section
/-! DEFINITION. One step: the next operation of the environment's schedule is taken, decoded and run (R66). -/

namespace Sys2Proof.Machine

/-- Takes the oldest pending transaction, decodes it in the machine's configuration, and runs the operation with that
transaction consumed (R66, R67). With nothing pending there is no operation to execute and all state is retained
(R237). A transaction that is no operation is refused by name. -/
def step (s : State) : Host.Outcome State Fault Refusal :=
  match s.pending with
  | [] => .next s
  | w :: rest =>
    match decode s.cfg w with
    | .ok i => exec i { s with pending := rest }
    | .error e => .refused (.notAnOperation e)

/-- `s` with one instruction word as the transaction that `step` takes next. -/
def State.withFetchWord (s : State) (nbits w : Nat) : State :=
  { s with pending := transactionOfWord s.cfg nbits w :: s.pending }

end Sys2Proof.Machine
end

