-- ==== Sys2Proof/Safety.lean ====
section
/-! DEFINITION. The terms claims are stated in: the invariants of spec/10_state.md R27 and R35 with what makes them
inductive, the canonical form of the registry (R26), the streams an observer sees (R42, R70), and quiescence of the
whole block (spec/70_reset_and_hazards.md R264). -/

namespace Sys2Proof.Machine

/-- The accumulator is clear (R27 (a), R145). -/
abbrev FrameEngine.Cleared (f : FrameEngine) : Prop :=
  f.len = 0 ∧ f.num = 0 ∧ f.port = 0 ∧ f.ctrl = 0 ∧ f.payload = [] ∧ f.crc = 0 ∧ f.payRem = 0 ∧ f.crcRem = 2

/-- R27, clause by clause. -/
abbrev FrameEngine.StateInvariant (f : FrameEngine) : Prop :=
  (f.state = .idle → f.Cleared)
  ∧ (f.state = .length → f.Cleared)
  ∧ (f.state = .number ∨ f.state = .port ∨ f.state = .control →
      f.payload = [] ∧ f.payRem = f.len ∧ f.crc = 0 ∧ f.crcRem = 2)
  ∧ (f.state = .payload →
      1 ≤ f.payRem.toNat ∧ f.payRem.toNat ≤ f.len.toNat ∧ f.payload.length = f.len.toNat - f.payRem.toNat
      ∧ f.crcRem = 2)
  ∧ (f.state = .crc →
      f.payRem = 0 ∧ f.payload.length = f.len.toNat ∧ (f.crcRem = 2 ∨ f.crcRem = 1) ∧ f.crc.extractLsb' 8 8 = 0)
  ∧ (f.state = .endByte → f.payRem = 0 ∧ f.payload.length = f.len.toNat ∧ f.crcRem = 0)

/-- What R27 leaves out and its clause (d) rests on: the CRC register is still 0 until the first CRC byte. -/
abbrev FrameEngine.CrcFresh (f : FrameEngine) : Prop :=
  f.state = .payload ∨ (f.state = .crc ∧ f.crcRem = 2) → f.crc = 0

/-- The registry's canonical form: the occupied slots in strictly rising order of port (R26, log entry 9). -/
abbrev Registry.Canonical (r : Registry) : Prop := r.Pairwise (fun a b => a.1.toNat < b.1.toNat)

/-- The FE invariant that every step keeps. -/
abbrev FrameEngine.Inv (f : FrameEngine) : Prop := f.StateInvariant ∧ f.CrcFresh ∧ f.reg.Canonical

/-- R35, clause by clause. -/
abbrev MessageEngine.StateInvariant (m : MessageEngine) : Prop :=
  (m.ts = false → m.lk = false ∧ m.cnt = 0 ∧ m.len = 0 ∧ m.rxbuf = [])
  ∧ (m.ts = true ∧ m.lk = false → m.cnt.toNat ≤ 7 ∧ m.rxbuf = [] ∧ m.len.toNat < 2 ^ (8 * m.cnt.toNat))
  ∧ (m.lk = true → m.ts = true ∧ m.cnt = 8 ∧ 1 ≤ m.len.toNat ∧ m.rxbuf.length < m.len.toNat)
  ∧ m.txq.length ≤ 1
  ∧ (m.bound = false → m = MessageEngine.initial)

/-- R28: every queued message is a Message. -/
abbrev MessageEngine.QueueFits (m : MessageEngine) : Prop := ∀ x ∈ m.txq, x.length < 2 ^ 64

/-- The ME invariant that every step keeps. The last clause is decision D18: a known length is within the capacity. -/
abbrev MessageEngine.Inv (c : Config) (m : MessageEngine) : Prop :=
  m.StateInvariant ∧ m.QueueFits ∧ (m.lk = true → capExceeded c m.len = false)

/-- The invariant of the block. -/
abbrev State.Inv (s : State) : Prop := s.fe.Inv ∧ s.me.Inv s.cfg

/-- The bytes of an effect list that appear on `fe_tx` (R42). -/
def feTxStream : List Effect → Bytes
  | [] => []
  | .feTx b :: es => b :: feTxStream es
  | .feDeliver _ _ :: es => feTxStream es
  | .feDiag _ :: es => feTxStream es
  | .meTx _ :: es => feTxStream es
  | .meDeliver _ :: es => feTxStream es
  | .meDiag _ :: es => feTxStream es

/-- The bytes of an effect list that appear on `me_tx` (R42). -/
def meTxStream : List Effect → Bytes
  | [] => []
  | .meTx b :: es => b :: meTxStream es
  | .feTx _ :: es => meTxStream es
  | .feDeliver _ _ :: es => meTxStream es
  | .feDiag _ :: es => meTxStream es
  | .meDeliver _ :: es => meTxStream es
  | .meDiag _ :: es => meTxStream es

/-- Both engines are quiescent (R264). -/
def State.quiescent (s : State) : Bool := s.fe.quiescent && s.me.quiescent

end Sys2Proof.Machine
end

