-- ==== Sys2Proof/Certificates/Slice0/Obligations.lean ====
section
/-! DEFINITION. The statements about the model. `Sys2Proof.Claims` holds the wire images, register values and case
splits of the spec written out, so that a statement can be read against its rule without opening the model. -/

namespace Sys2Proof.Claims

open Machine

/-- R84: the five members and their wire codes. -/
def controlCodes (c : Config) : List (Control × Byte) :=
  [(.transmission, c.ctrlTransmission), (.success, c.ctrlSuccess), (.crcChecksumFailed, c.ctrlCrcFailed),
   (.wrongEndByte, c.ctrlWrongEnd), (.portNotConnect, c.ctrlPortNotConnect)]

/-- R86: the eight bytes of a reply frame. -/
def replyBytes (c : Config) (number port code : Byte) : Bytes :=
  [c.frameStart, 0x00, number, port, code, 0x00, 0x00, c.frameEnd]

/-- R80, byte by byte, up to the END byte. -/
def imageBody (c : Config) (number port code : Byte) (payload : Bytes) (crc : U16) : Bytes :=
  [c.frameStart, BitVec.ofNat 8 payload.length, number, port, code] ++ payload
    ++ [BitVec.ofNat 8 (crc.toNat / 256), BitVec.ofNat 8 crc.toNat]

/-- R80: the wire image of a frame. -/
def wireImage (c : Config) (number port code : Byte) (payload : Bytes) : Bytes :=
  imageBody c number port code payload (crcOf payload) ++ [c.frameEnd]

/-- R60, R89: a length as eight bytes, most-significant first. -/
def lengthBytes (n : Nat) : Bytes :=
  [BitVec.ofNat 8 (n / 2 ^ 56), BitVec.ofNat 8 (n / 2 ^ 48), BitVec.ofNat 8 (n / 2 ^ 40), BitVec.ofNat 8 (n / 2 ^ 32),
   BitVec.ofNat 8 (n / 2 ^ 24), BitVec.ofNat 8 (n / 2 ^ 16), BitVec.ofNat 8 (n / 2 ^ 8), BitVec.ofNat 8 n]

/-- The FE in IDLE with a clear accumulator (R27 (a), R44) and a registry. -/
def feResting (r : Registry) : FrameEngine :=
  { state := .idle, len := 0, num := 0, port := 0, ctrl := 0, payload := [], crc := 0, payRem := 0, crcRem := 2
    reg := r }

/-- A bound ME in phase IDLE (R31, R35 (a)) with an outbound FIFO. -/
def meResting (q : List Bytes) : MessageEngine :=
  { bound := true, ts := false, lk := false, cnt := 0, len := 0, rxbuf := [], txq := q }

/-- The frame that the header and payload of a received image give, with the CRC received. -/
def receivedFrame (number port code : Byte) (payload : Bytes) (crc : U16) : Frame :=
  { length := BitVec.ofNat 8 payload.length, number := number, port := port, control := code, payload := payload
    crc := crc }

/-- R156 and R162: the effects of the END policy, first match wins, from the registry, the received frame, and whether
its CRC and its END byte match. -/
def endEffects (c : Config) (r : Registry) (f : Frame) (crcOk endOk : Bool) : List Effect :=
  match r.slot f.port, crcOk, endOk with
  | none, _, _ => (replyBytes c f.number f.port c.ctrlPortNotConnect).map .feTx
  | some _, false, _ => (replyBytes c f.number f.port c.ctrlCrcFailed).map .feTx
  | some _, true, false => (replyBytes c f.number f.port c.ctrlWrongEnd).map .feTx
  | some h, true, true =>
    if f.control = c.ctrlTransmission then
      (replyBytes c f.number f.port c.ctrlSuccess).map .feTx ++ [.feDeliver h f]
    else []

/-- The operations of the Frame Engine and of its wire encodings. -/
def onFrameEngine : Instr → Bool
  | .frameTransmission _ _ _ | .frameSuccess _ _ _ | .frameCrcFail _ _ _ | .frameWrongEnd _ _ _
  | .framePortNc _ _ _ | .replySuccess _ _ | .replyCrcFail _ _ | .replyWrongEnd _ _ | .replyPortNc _ _
  | .feRxIdleStart _ | .feRxIdleOther _ | .feRxLength _ | .feRxNumber _ | .feRxPort _ | .feRxControl _
  | .feRxPayload _ | .feRxCrc _ | .feRxEnd _ | .feConnect _ _ | .feRxByte _ | .feRxChunk _ | .feSend _ _ _ _ => true
  | _ => false

/-- The operations of the Message Engine and of its wire encodings. -/
def onMessageEngine : Instr → Bool
  | .msgStart | .msgAck | .msgNack | .msgLength _ | .msgPayload _ | .meRxIdleStart _ | .meRxIdleAck _
  | .meRxIdleOther _ | .meRxLength _ | .meRxPayload _ | .meBind | .meUnbind | .meSend _ | .meRxByte _
  | .meRxChunk _ => true
  | _ => false

/-- The codec operations. -/
def onCodec : Instr → Bool
  | .crc16Step _ _ | .crc16 _ | .serU16 _ | .serU64 _ | .frameEncode _ _ _ _ | .frameDecode _ => true
  | _ => false

/-- The operations by which no byte is received and nothing is torn down. -/
def isLocalCommand : Instr → Bool
  | .replySuccess _ _ | .replyCrcFail _ _ | .replyWrongEnd _ _ | .replyPortNc _ _ | .feConnect _ _ | .feSend _ _ _ _
  | .meBind | .meSend _ => true
  | i => onCodec i

end Sys2Proof.Claims

open Sys2Proof Sys2Proof.Machine Sys2Proof.Claims

/-! Reset, the schedule, and the transactions -/

/-- Every register after reset (R44) in every configuration, for the machine the host runs too. The values other than
`fe_state = IDLE` are the spec's own choice (decision D7); the three fields `pending`, `trace`, `ret` are the model's
(log entry 6). -/
def Obligations.ResetValuesOfEveryRegister : Prop :=
  State.reset = State.initial Config.configured ∧
  ∀ c : Config, State.initial c =
    { cfg := c
      fe := { state := .idle, len := 0, num := 0, port := 0, ctrl := 0, payload := [], crc := 0x0000, payRem := 0
              crcRem := 2, reg := [] }
      me := { bound := false, ts := false, lk := false, cnt := 0, len := 0, rxbuf := [], txq := [] }
      pending := [], trace := [], ret := none }
    ∧ (∀ p : Byte, (State.initial c).fe.reg.slot p = none)

/-- `RESET` (R260) completes in every state: both engines at their reset values (decision D7), an empty effect list, the
configuration kept. -/
def Obligations.ResetOperationRestoresBothEngines : Prop :=
  ∀ s : State, exec .reset s = .next
    { s with
      fe := { state := .idle, len := 0, num := 0, port := 0, ctrl := 0, payload := [], crc := 0x0000, payRem := 0
              crcRem := 2, reg := [] }
      me := { bound := false, ts := false, lk := false, cnt := 0, len := 0, rxbuf := [], txq := [] } }

/-- The invariant of R27 and R35 holds after reset, in every configuration. -/
def Obligations.ResetStateMeetsTheInvariant : Prop := ∀ c : Config, (State.initial c).Inv

/-- A step is the operation its oldest pending transaction decodes to, run with that transaction consumed (R66, R67);
with nothing pending all state is retained (R237); a transaction that is no operation is refused by name, which is the
model's own choice (log entry 10); and an instruction word the host places is the transaction the very next step takes.
The schedule is the model's own field (log entry 6) and the transactions have the model's own form (log entry 4). -/
def Obligations.StepRunsTheDecodedOperation : Prop :=
  ∀ s : State,
    (∀ w rest i, s.pending = w :: rest → decode s.cfg w = .ok i → step s = exec i { s with pending := rest })
    ∧ (s.pending = [] → step s = .next s)
    ∧ (∀ w rest e, s.pending = w :: rest → decode s.cfg w = .error e → step s = .refused (.notAnOperation e))
    ∧ (∀ nbits w i, decode s.cfg (transactionOfWord s.cfg nbits w) = .ok i →
        step (s.withFetchWord nbits w) = exec i s)

/-- Transactions written out byte by byte, in the test configuration TC1, and the operations they are. The spec gives the
operation numbers 0 to 15 (R93), the frame image of V-ENC-01, the reply image of V-ENC-06, the Start byte of R88 and the
length bytes of R89. The rest is the model's choice (log entry 4): that an operation is a tag byte and its operands, the
tags 18, 27 and 30 to 33, and the index byte of a control operand. The CRC bytes of V-ENC-01 are general knowledge G1 in
the order of decision D2 (log entries 2 and 16). -/
def Obligations.WrittenOutTransactionsDecode : Prop :=
  decode Config.tc1 [0, 0x0D, 0x80, 0xAA] = .ok (.crc16Step 0x0D80 0xAA)
  ∧ decode Config.tc1 [3, 0, 0, 0, 0, 0, 0, 1, 0] = .ok (.serU64 256)
  ∧ decode Config.tc1 [6, 10, 0x68, 0x41] = .ok (.feConnect 10 { name := [0x68, 0x41] })
  ∧ decode Config.tc1 [9, 0, 10, 0, 0x12, 0xAA] = .ok (.feSend 0 10 .transmission [0x12, 0xAA])
  ∧ decode Config.tc1 [12, 0x41, 0x42] = .ok (.meSend [0x41, 0x42])
  ∧ decode Config.tc1 [18, 2] = .ok (.feRxLength 2)
  ∧ decode Config.tc1 [27, 0] = .ok (.meRxIdleOther 0)
  ∧ decode Config.tc1 [30, 0x7E, 0x02, 0x00, 0x0A, 0x01, 0x12, 0xAA, 0xDF, 0x8C, 0x7F]
      = .ok (.frameTransmission 0 10 [0x12, 0xAA])
  ∧ decode Config.tc1 [31, 0x7E, 0x00, 0x00, 0x0A, 0x02, 0x00, 0x00, 0x7F] = .ok (.replySuccess 0 10)
  ∧ decode Config.tc1 [32, 0xA1] = .ok .msgStart
  ∧ decode Config.tc1 [33, 0, 0, 0, 0, 0, 0, 0, 4] = .ok (.msgLength 4)

/-- Decoding the transaction of a well-formed operation gives it back, every operand included, in every configuration
that meets R6. The transaction form is the model's (log entry 4). -/
def Obligations.DecodeOfEncodeGivesTheOperation : Prop :=
  ∀ (c : Config) (i : Instr), c.Legal → i.wellFormed = true → decode c (encode c i) = .ok i

/-- Each transaction has one meaning: one that decodes is the encoding of what it decodes to. The transaction form is
the model's (log entry 4). -/
def Obligations.EncodeOfDecodeGivesTheTransaction : Prop :=
  ∀ (c : Config) (w : Bytes) (i : Instr), decode c w = .ok i → encode c i = w

/-- The decoder answers well-formed operations only, so no step meets an operand outside its bounds. The
transaction form is the model's (log entry 4). -/
def Obligations.DecodedOperationsAreWellFormed : Prop :=
  ∀ (c : Config) (w : Bytes) (i : Instr), decode c w = .ok i → i.wellFormed = true

/-! The codec -/

/-- `CRC16_STEP` (R112) in every state: eight shifts, with 0xA001 added when the bit shifted out is 1. The polynomial and
this bit-serial form are the spec's general knowledge (G1, G4; log entry 2). -/
def Obligations.CrcStepIsTheBitSerialForm : Prop :=
  ∀ (s : State) (c : U16) (b : Byte),
    exec (.crc16Step c b) s = .next { s with ret := some (.word
      ((fun x : U16 => if x.getLsbD 0 then (x >>> 1) ^^^ 0xA001#16 else x >>> 1)^[8] (c ^^^ b.setWidth 16))) }

/-- R113: the table-driven form, with `T[i] = CRC16_STEP(0x0000, i)`. -/
def Obligations.CrcStepEqualsTheTableForm : Prop :=
  ∀ (c : U16) (b : Byte), crcStep c b = (c >>> 8) ^^^ crcStep 0x0000 ((c ^^^ b.setWidth 16).extractLsb' 0 8)

/-- `CRC16` (R114) in every state: the fold of `CRC16_STEP` from seed 0 with no final exclusive-or; 0x0000 for the empty
and every all-zero sequence. R114 numbers it operation 1; that a transaction is this number and the operand bytes is the
model's choice (log entry 4). -/
def Obligations.CrcIsTheFoldFromSeedZero : Prop :=
  (∀ (c : Config) (x : Bytes), decode c (1 :: x) = .ok (.crc16 x))
  ∧ (∀ (s : State) (x : Bytes), exec (.crc16 x) s = .next { s with ret := some (.word (x.foldl crcStep 0x0000)) })
  ∧ ∀ n : Nat, crcOf (List.replicate n 0x00) = 0x0000

/-- R115 (a), (b), (c), (e): the checksum is incremental and linear, does not see leading zero bytes, and has residue 0
with the CRC appended low byte first. -/
def Obligations.CrcLawsOfR115 : Prop :=
  (∀ x y : Bytes, crcOf (x ++ y) = y.foldl crcStep (crcOf x))
  ∧ (∀ x : Bytes, crcOf (0x00 :: x) = crcOf x)
  ∧ (∀ x y : Bytes, x.length = y.length → crcOf (List.zipWith (· ^^^ ·) x y) = crcOf x ^^^ crcOf y)
  ∧ ∀ x : Bytes,
      crcOf (x ++ [BitVec.ofNat 8 (crcOf x).toNat, BitVec.ofNat 8 ((crcOf x).toNat / 256)]) = 0x0000

/-- R115 (d): a change confined to one byte changes the checksum (the spec's general knowledge, G4). -/
def Obligations.CrcDetectsAnySingleByteChange : Prop :=
  ∀ (x : Bytes) (k : Nat) (b old : Byte), x[k]? = some old → b ≠ old → crcOf (x.set k b) ≠ crcOf x

/-- `SER_U16` (R118) in every state: most-significant byte first; and its inverse, the value of the two bytes read
most-significant first. Which byte is byte 0 is the spec's decision D2 (log entry 16). -/
def Obligations.SerU16IsMostSignificantByteFirst : Prop :=
  ∀ s : State,
    (∀ v : U16, exec (.serU16 v) s
      = .next { s with ret := some (.bytes [BitVec.ofNat 8 (v.toNat / 256), BitVec.ofNat 8 v.toNat]) })
    ∧ (∀ b0 b1 : Byte, (deserializeU16 b0 b1).toNat = b0.toNat * 256 + b1.toNat)

/-- `SER_U64` (R119) in every state: eight bytes, most-significant byte first; and its inverse, the fold of
`acc <- (acc[55:0], s[i])` from 0, which is the value of the eight bytes read most-significant first. -/
def Obligations.SerU64IsMostSignificantByteFirst : Prop :=
  ∀ s : State,
    (∀ v : U64, exec (.serU64 v) s = .next { s with ret := some (.bytes (lengthBytes v.toNat)) })
    ∧ (∀ x : Bytes, deserializeU64 x = x.foldl (fun acc b => acc.extractLsb' 0 56 ++ b) (0 : U64))
    ∧ (∀ x : Bytes, x.length = 8 → (deserializeU64 x).toNat = x.foldl (fun n b => n * 256 + b.toNat) 0)

/-- R120: both round trips of both serializers. -/
def Obligations.SerializersRoundTrip : Prop :=
  (∀ v : U16, ∃ b0 b1 : Byte, serializeU16 v = [b0, b1] ∧ deserializeU16 b0 b1 = v)
  ∧ (∀ b0 b1 : Byte, serializeU16 (deserializeU16 b0 b1) = [b0, b1])
  ∧ (∀ v : U64, deserializeU64 (serializeU64 v) = v)
  ∧ (∀ x : Bytes, x.length = 8 → serializeU64 (deserializeU64 x) = x)

/-- `FRAME_ENCODE` (R121) in every state, for every payload of at most 255 bytes: the wire image of R80 with the control
member's code, and its length 8 + N (the CRC's byte order is decision D2, log entry 16). -/
def Obligations.FrameEncodeReturnsTheWireImage : Prop :=
  ∀ (s : State) (number port : Byte) (k : Control) (code : Byte) (payload : Bytes),
    (k, code) ∈ controlCodes s.cfg → payload.length ≤ 255 →
    exec (.frameEncode number port k payload) s
      = .next { s with ret := some (.bytes (wireImage s.cfg number port code payload)) }
    ∧ (wireImage s.cfg number port code payload).length = 8 + payload.length

/-- `FRAME_DECODE` (R124) in every state and on every byte sequence: the frame, `crc_ok` and `end_ok` of a sequence that
begins with `FRAME_START` and has length 8 + N, N its second byte; `Malformed` for every other sequence. That the first
CRC byte is the high one is decision D2 (log entry 16). -/
def Obligations.FrameDecodeSplitsTheImage : Prop :=
  ∀ s : State,
    (∀ (n number port code hi lo last : Byte) (payload : Bytes), payload.length = n.toNat →
      exec (.frameDecode ([s.cfg.frameStart, n, number, port, code] ++ payload ++ [hi, lo, last])) s
        = .next { s with ret := some (.frame (.decoded
            { length := n, number := number, port := port, control := code, payload := payload
              crc := BitVec.ofNat 16 (hi.toNat * 256 + lo.toNat) }
            (decide ((crcOf payload).toNat = hi.toNat * 256 + lo.toNat)) (decide (last = s.cfg.frameEnd)))) })
    ∧ (∀ w : Bytes,
        (w.length < 8 ∨ w[0]? ≠ some s.cfg.frameStart ∨ (∀ n : Byte, w[1]? = some n → w.length ≠ 8 + n.toNat)) →
        exec (.frameDecode w) s = .next { s with ret := some (.frame .malformed) })

/-- R125: decoding an encoded frame recovers the fields, and the CRC and the END byte validate. -/
def Obligations.FrameDecodeInvertsFrameEncode : Prop :=
  ∀ (c : Config) (number port : Byte) (k : Control) (code : Byte) (payload : Bytes),
    (k, code) ∈ controlCodes c → payload.length ≤ 255 →
    frameOfImage c (frameImage c number port k payload)
      = .decoded (receivedFrame number port code payload (crcOf payload)) true true

/-! The Frame Engine: registration, sending, the rows of R144 -/

/-- `FE_CONNECT` (R141, R142) in every state: a free slot takes the handler, and no other slot and nothing else changes;
an occupied slot keeps its handler, even for the same one, with the diagnostic of R224 and no other change (that what
the source calls logged is an effect is decision D17, log entry 22). -/
def Obligations.ConnectIsFirstWins : Prop :=
  ∀ (s : State) (p : Byte) (h : HandlerId),
    (s.fe.reg.slot p = none → ∃ r : Registry,
      exec (.feConnect p h) s = .next { s with fe := { s.fe with reg := r } }
      ∧ r.slot p = some h ∧ ∀ q : Byte, q ≠ p → r.slot q = s.fe.reg.slot q)
    ∧ (∀ k : HandlerId, s.fe.reg.slot p = some k →
      exec (.feConnect p h) s = .next { s with trace := s.trace ++ [.feDiag .feDupConnect] })

/-- `FE_SEND` (R164, R165) in every state, whatever `fe_state` and the registry: the wire image of the frame on `fe_tx`,
contiguous, for any of the five members, and no state written (the CRC's byte order is decision D2, log entry 16). -/
def Obligations.SendTransmitsTheWireImage : Prop :=
  ∀ (s : State) (number port : Byte) (k : Control) (code : Byte) (payload : Bytes),
    (k, code) ∈ controlCodes s.cfg → payload.length ≤ 255 →
    exec (.feSend number port k payload) s
      = .next { s with trace := s.trace ++ (wireImage s.cfg number port code payload).map .feTx }

/-- R146 and R147: in IDLE the start marker clears the accumulator and leads to LENGTH without being stored, and any
other byte changes nothing. Neither has an effect. The clear's values are decision D14. -/
def Obligations.IdleRowsTestTheStartMarker : Prop :=
  ∀ (s : State) (b : Byte), s.fe.state = .idle →
    (b = s.cfg.frameStart → ∀ i ∈ [Instr.feRxIdleStart b, .feRxByte b, .feRxChunk [b]],
      exec i s = .next { s with fe := { feResting s.fe.reg with state := .length } })
    ∧ (b ≠ s.cfg.frameStart → ∀ i ∈ [Instr.feRxIdleOther b, .feRxByte b, .feRxChunk [b]], exec i s = .next s)

/-- R149, R150, R151: the rows of NUMBER, PORT and CONTROL store their byte, whatever it is, and nothing else changes;
CONTROL skips an empty payload. That CONTROL stores its byte raw, a code outside the five included, is decision D13
(R91 (b), log entry 21). -/
def Obligations.HeaderRowsStoreTheirByte : Prop :=
  ∀ (s : State) (b : Byte),
    (s.fe.state = .number → ∀ i ∈ [Instr.feRxNumber b, .feRxByte b, .feRxChunk [b]],
      exec i s = .next { s with fe := { s.fe with num := b, state := .port } })
    ∧ (s.fe.state = .port → ∀ i ∈ [Instr.feRxPort b, .feRxByte b, .feRxChunk [b]],
      exec i s = .next { s with fe := { s.fe with port := b, state := .control } })
    ∧ (s.fe.state = .control → s.fe.len = 0 → ∀ i ∈ [Instr.feRxControl b, .feRxByte b, .feRxChunk [b]],
      exec i s = .next { s with fe := { s.fe with ctrl := b, state := .crc } })
    ∧ (s.fe.state = .control → s.fe.len ≠ 0 → ∀ i ∈ [Instr.feRxControl b, .feRxByte b, .feRxChunk [b]],
      exec i s = .next { s with fe := { s.fe with ctrl := b, state := .payload } })

/-- R148 and R152: LENGTH stores its byte, any of the 256, and loads `fe_pay_rem`; a payload byte is appended and counted
down, and the last one leads to CRC. That the counter counts down is decision D14. -/
def Obligations.LengthAndPayloadRowsCount : Prop :=
  ∀ (s : State) (b : Byte),
    (s.fe.state = .length → ∀ i ∈ [Instr.feRxLength b, .feRxByte b, .feRxChunk [b]],
      exec i s = .next { s with fe := { s.fe with len := b, payRem := b, state := .number } })
    ∧ (s.fe.state = .payload → ∀ i ∈ [Instr.feRxPayload b, .feRxByte b, .feRxChunk [b]],
      (s.fe.payRem = 1 → exec i s = .next
        { s with fe := { s.fe with payload := s.fe.payload ++ [b], payRem := 0, state := .crc } })
      ∧ (1 < s.fe.payRem.toNat → exec i s = .next
        { s with fe := { s.fe with payload := s.fe.payload ++ [b]
                                   payRem := BitVec.ofNat 8 (s.fe.payRem.toNat - 1) } }))

/-- R154: a CRC byte enters `fe_crc` at its low end, the earlier byte moving to bits 15:8; the second leads to END.
The byte order is decision D2 (log entry 16). -/
def Obligations.CrcRowShiftsInItsByte : Prop :=
  ∀ (s : State) (b : Byte), s.fe.state = .crc → ∀ i ∈ [Instr.feRxCrc b, .feRxByte b, .feRxChunk [b]],
    (s.fe.crcRem = 2 → exec i s = .next
      { s with fe := { s.fe with crc := BitVec.ofNat 16 (s.fe.crc.toNat % 256 * 256 + b.toNat), crcRem := 1 } })
    ∧ (s.fe.crcRem = 1 → exec i s = .next
      { s with fe := { s.fe with crc := BitVec.ofNat 16 (s.fe.crc.toNat % 256 * 256 + b.toNat), crcRem := 0
                                 state := .endByte } })

/-- R156, R157, R160, R162: the END policy in its priority order, for every accumulator, registry and END byte: the one
reply of the branch with the received number and port, the delivery of the accumulator as it stands, after the Success
reply, and in every branch `fe_clear()` and IDLE (R158). That a frame of another control is absorbed is the spec's
reading C3 and decision D13 (log entry 21). -/
def Obligations.EndPolicyIsFirstMatchWins : Prop :=
  ∀ (s : State) (b : Byte), s.fe.state = .endByte → ∀ i ∈ [Instr.feRxEnd b, .feRxByte b, .feRxChunk [b]],
    let replies (code : Byte) (more : List Effect) : Prop := exec i s = .next
      { s with fe := { s.fe.clear with state := .idle }
               trace := s.trace ++ ((replyBytes s.cfg s.fe.num s.fe.port code).map .feTx ++ more) }
    (s.fe.reg.slot s.fe.port = none → replies s.cfg.ctrlPortNotConnect [])
    ∧ ∀ h : HandlerId, s.fe.reg.slot s.fe.port = some h →
      (crcOf s.fe.payload ≠ s.fe.crc → replies s.cfg.ctrlCrcFailed [])
      ∧ (crcOf s.fe.payload = s.fe.crc → b ≠ s.cfg.frameEnd → replies s.cfg.ctrlWrongEnd [])
      ∧ (crcOf s.fe.payload = s.fe.crc → b = s.cfg.frameEnd → s.fe.ctrl = s.cfg.ctrlTransmission →
          replies s.cfg.ctrlSuccess [.feDeliver h
            { length := s.fe.len, number := s.fe.num, port := s.fe.port, control := s.fe.ctrl
              payload := s.fe.payload, crc := s.fe.crc }])
      ∧ (crcOf s.fe.payload = s.fe.crc → b = s.cfg.frameEnd → s.fe.ctrl ≠ s.cfg.ctrlTransmission →
          exec i s = .next { s with fe := { s.fe.clear with state := .idle } })

/-- R90: the arrival of a byte is handled by the row that the state (and, in idle, the byte) selects, whichever
sub-operation it arrives as. That a sub-operation arriving in another state is handled so is log entry 7. -/
def Obligations.ArrivingByteIsHandledByTheSelectedRow : Prop :=
  ∀ (s : State) (b : Byte),
    (∀ i ∈ [Instr.feRxIdleStart b, .feRxIdleOther b, .feRxLength b, .feRxNumber b, .feRxPort b, .feRxControl b,
        .feRxPayload b, .feRxCrc b, .feRxEnd b], exec i s = exec (.feRxByte b) s)
    ∧ (∀ i ∈ [Instr.meRxIdleStart b, .meRxIdleAck b, .meRxIdleOther b, .meRxLength b, .meRxPayload b],
        exec i s = exec (.meRxByte b) s)

/-- R144: outside END a received byte has no effect on any output port, and none ever writes the registry. -/
def Obligations.OnlyTheEndRowHasEffects : Prop :=
  ∀ (s : State) (b : Byte), ∃ t : State, exec (.feRxByte b) s = .next t
    ∧ t.fe.reg = s.fe.reg ∧ (s.fe.state ≠ .endByte → t.trace = s.trace)

/-- R143, R191, R65: a chunk is its bytes in order, each run in the state the one before left. R143 numbers `FE_RX_CHUNK`
operation 8; that a transaction is this number and the operand bytes is the model's choice (log entry 4). -/
def Obligations.ChunkIsItsBytesInOrder : Prop :=
  (∀ (c : Config) (x : Bytes), decode c (8 :: x) = .ok (.feRxChunk x))
  ∧ (∀ s : State, exec (.feRxChunk []) s = .next s ∧ exec (.meRxChunk []) s = .next s)
  ∧ ∀ (s t : State) (b : Byte) (x : Bytes),
      (exec (.feRxByte b) s = .next t → exec (.feRxChunk (b :: x)) s = exec (.feRxChunk x) t)
      ∧ (exec (.meRxByte b) s = .next t → exec (.meRxChunk (b :: x)) s = exec (.meRxChunk x) t)

/-- R65, R166 (d): chunk boundaries are not observable, in final state and effects, for either engine. -/
def Obligations.ChunkBoundariesAreNotObservable : Prop :=
  ∀ (s t : State) (x y : Bytes),
    (exec (.feRxChunk x) s = .next t → exec (.feRxChunk (x ++ y)) s = exec (.feRxChunk y) t)
    ∧ (exec (.meRxChunk x) s = .next t → exec (.meRxChunk (x ++ y)) s = exec (.meRxChunk y) t)

/-! The Frame Engine: whole frames -/

/-- R160, R86: each reply row is its eight bytes, contiguous on `fe_tx`, in every state. That the row alone writes no
state is log entry 5. -/
def Obligations.ReplyRowsTransmitEightBytes : Prop :=
  ∀ (s : State) (number port : Byte), ∀ r ∈
      [(Instr.replySuccess number port, s.cfg.ctrlSuccess), (.replyCrcFail number port, s.cfg.ctrlCrcFailed),
       (.replyWrongEnd number port, s.cfg.ctrlWrongEnd), (.replyPortNc number port, s.cfg.ctrlPortNotConnect)],
    exec r.1 s = .next { s with trace := s.trace ++ (replyBytes s.cfg number port r.2).map .feTx }

/-- R80, R100: each frame row is the reception of its wire image, in every state, and completes (log entry 5). The CRC's
byte order is decision D2 (log entry 16). -/
def Obligations.FrameRowsAreReceivedImages : Prop :=
  ∀ (s : State) (number port : Byte) (payload : Bytes), payload.length ≤ 255 → ∀ r ∈
      [(Instr.frameTransmission number port payload, s.cfg.ctrlTransmission),
       (.frameSuccess number port payload, s.cfg.ctrlSuccess), (.frameCrcFail number port payload, s.cfg.ctrlCrcFailed),
       (.frameWrongEnd number port payload, s.cfg.ctrlWrongEnd),
       (.framePortNc number port payload, s.cfg.ctrlPortNotConnect)],
    exec r.1 s = exec (.feRxChunk (wireImage s.cfg number port r.2 payload)) s ∧ ∃ t : State, exec r.1 s = .next t

/-- R166 (a), R156: a Transmission frame received in IDLE is delivered once to the handler of its port after a Success
reply, or, with no handler, answered with PortNotConnect and not delivered; the engine is at rest again. That the row is
the reception of its image is log entry 5. -/
def Obligations.TransmissionFrameIsDeliveredOrRefused : Prop :=
  ∀ (s : State) (number port : Byte) (payload : Bytes), s.fe.state = .idle → payload.length ≤ 255 →
    (∀ h : HandlerId, s.fe.reg.slot port = some h →
      exec (.frameTransmission number port payload) s = .next
        { s with fe := feResting s.fe.reg
                 trace := s.trace ++ (replyBytes s.cfg number port s.cfg.ctrlSuccess).map .feTx
                   ++ [.feDeliver h (receivedFrame number port s.cfg.ctrlTransmission payload (crcOf payload))] })
    ∧ (s.fe.reg.slot port = none →
      exec (.frameTransmission number port payload) s = .next
        { s with fe := feResting s.fe.reg
                 trace := s.trace ++ (replyBytes s.cfg number port s.cfg.ctrlPortNotConnect).map .feTx })

/-- R162, R277: a valid frame of any other control member, received in IDLE in a configuration that meets R6, is absorbed
without reply or delivery where its port has a handler, and answered with PortNotConnect where it has none. That it is
absorbed is the spec's reading C3 and decision D13 (log entry 21); that a row is a reception is log entry 5. -/
def Obligations.OtherFramesAreAbsorbedOrRefused : Prop :=
  ∀ (s : State) (number port : Byte) (payload : Bytes),
    s.fe.state = .idle → payload.length ≤ 255 → s.cfg.Legal → ∀ i ∈
      [Instr.frameSuccess number port payload, .frameCrcFail number port payload, .frameWrongEnd number port payload,
       .framePortNc number port payload],
    (s.fe.reg.slot port ≠ none → exec i s = .next { s with fe := feResting s.fe.reg })
    ∧ (s.fe.reg.slot port = none → exec i s = .next
        { s with fe := feResting s.fe.reg
                 trace := s.trace ++ (replyBytes s.cfg number port s.cfg.ctrlPortNotConnect).map .feTx })

/-- R124, R166 (e): fed to an FE in IDLE, a sequence that `FRAME_DECODE` decodes ends in IDLE with the same registry, the
END policy having seen exactly that frame, `crc_ok` and `end_ok`. That a frame of another control is absorbed is the
spec's reading C3 and decision D13 (log entry 21). -/
def Obligations.FrameEngineAgreesWithFrameDecode : Prop :=
  ∀ (s : State) (w : Bytes) (f : Frame) (crcOk endOk : Bool), s.fe.state = .idle →
    exec (.frameDecode w) s = .next { s with ret := some (.frame (.decoded f crcOk endOk)) } →
    exec (.feRxChunk w) s = .next
      { s with fe := feResting s.fe.reg, trace := s.trace ++ endEffects s.cfg s.fe.reg f crcOk endOk }

/-- R166 (b): with a handler on its port, a frame whose payload is corrupted in one byte after its CRC was computed is
answered with CrcChecksumFailed, whatever its END byte, and not delivered (rests on R115 (d), general knowledge G4, log
entry 2; the CRC's byte order is decision D2, log entry 16). -/
def Obligations.SingleByteCorruptionIsRejected : Prop :=
  ∀ (s : State) (number port code : Byte) (payload : Bytes) (h : HandlerId) (k : Nat) (b old last : Byte),
    s.fe.state = .idle → s.fe.reg.slot port = some h → payload.length ≤ 255 → payload[k]? = some old → b ≠ old →
    exec (.feRxChunk (imageBody s.cfg number port code (payload.set k b) (crcOf payload) ++ [last])) s = .next
      { s with fe := feResting s.fe.reg
               trace := s.trace ++ (replyBytes s.cfg number port s.cfg.ctrlCrcFailed).map .feTx }

/-- R166 (c), R158: with a handler on its port and a valid CRC, any END byte other than `FRAME_END` is answered with
WrongEndByte, and the engine is in IDLE even when that byte is `FRAME_START` (the CRC's byte order is decision D2, log
entry 16). -/
def Obligations.WrongEndByteIsRejected : Prop :=
  ∀ (s : State) (number port code : Byte) (payload : Bytes) (h : HandlerId) (last : Byte),
    s.fe.state = .idle → s.fe.reg.slot port = some h → payload.length ≤ 255 → last ≠ s.cfg.frameEnd →
    exec (.feRxChunk (imageBody s.cfg number port code payload (crcOf payload) ++ [last])) s = .next
      { s with fe := feResting s.fe.reg
               trace := s.trace ++ (replyBytes s.cfg number port s.cfg.ctrlWrongEnd).map .feTx }

/-- R163: after a start marker seen in IDLE exactly `7 + N` further bytes are consumed, whatever they are (N the first of
them): IDLE is reached with the last of them and not before. -/
def Obligations.StartMarkerCommitsToOneFrame : Prop :=
  ∀ (s : State) (n : Byte) (x : Bytes), s.fe.state = .idle → x.length = 6 + n.toNat →
    (∃ t : State, exec (.feRxChunk (s.cfg.frameStart :: n :: x)) s = .next t ∧ t.fe.state = .idle)
    ∧ ∀ k : Nat, k < 7 + n.toNat → ∃ t : State,
        exec (.feRxChunk (s.cfg.frameStart :: (n :: x).take k)) s = .next t ∧ t.fe.state ≠ .idle

/-- R163, R290: from every state of the invariant the FE is in IDLE again after at most 262 bytes. -/
def Obligations.FrameEngineReturnsToIdle : Prop :=
  ∀ (s : State) (x : Bytes), s.Inv → 262 ≤ x.length →
    ∃ k : Nat, k ≤ 262 ∧ ∃ t : State, exec (.feRxChunk (x.take k)) s = .next t ∧ t.fe.state = .idle

/-- R159: whatever the operation, a frame is delivered only to the handler registered for its port, and only with control
Transmission, the checksum of its payload as its CRC, and its length as its payload's. -/
def Obligations.OnlyValidFramesAreDelivered : Prop :=
  ∀ (i : Instr) (s t : State), s.Inv → exec i s = .next t →
    ∃ new : List Effect, t.trace = s.trace ++ new ∧ ∀ (h : HandlerId) (f : Frame), .feDeliver h f ∈ new →
      s.fe.reg.slot f.port = some h ∧ f.control = s.cfg.ctrlTransmission ∧ crcOf f.payload = f.crc
      ∧ f.payload.length = f.length.toNat

/-- R26, R142: no operation but `RESET` changes an occupied slot of the registry. -/
def Obligations.RegistrationLastsUntilReset : Prop :=
  ∀ (i : Instr) (s t : State) (p : Byte) (h : HandlerId),
    i ≠ .reset → exec i s = .next t → s.fe.reg.slot p = some h → t.fe.reg.slot p = some h

/-- R72 in state END (V-FE-17): a handler registered when only the END byte of a valid Transmission frame is missing, on
its port without a handler, receives the frame after the Success reply. -/
def Obligations.LateRegistrationReceivesTheFrame : Prop :=
  ∀ (s : State) (h : HandlerId), s.fe.state = .endByte → s.fe.reg.slot s.fe.port = none →
    crcOf s.fe.payload = s.fe.crc → s.fe.ctrl = s.cfg.ctrlTransmission →
    ∃ t u : State, exec (.feConnect s.fe.port h) s = .next t ∧ exec (.feRxByte s.cfg.frameEnd) t = .next u
      ∧ u.trace = s.trace ++ (replyBytes s.cfg s.fe.num s.fe.port s.cfg.ctrlSuccess).map .feTx
        ++ [.feDeliver h s.fe.frame]

/-! The Message Engine -/

/-- `ME_BIND` (R181) and `ME_UNBIND` (R182) in every state: binding sets `me_bound` and nothing else; unbinding puts every
ME register at its reset value, without an effect (decision D9). -/
def Obligations.BindAndUnbindWriteTheBinding : Prop :=
  ∀ s : State,
    exec .meBind s = .next { s with me := { s.me with bound := true } }
    ∧ exec .meUnbind s = .next
      { s with me := { bound := false, ts := false, lk := false, cnt := 0, len := 0, rxbuf := [], txq := [] } }

/-- `ME_SEND` (R183) for every message: dropped with a diagnostic when unbound, else when a handshake is in progress in
either direction (the guard is decision D3), and otherwise one Start byte and the message at the tail of the FIFO. -/
def Obligations.SendIsGuardedByTheHandshake : Prop :=
  ∀ (s : State) (m : Bytes), m.length < 2 ^ 64 →
    (s.me.bound = false → exec (.meSend m) s = .next { s with trace := s.trace ++ [.meDiag .meSendUnbound] })
    ∧ (s.me.bound = true → s.me.ts = true ∨ s.me.txq ≠ [] →
        exec (.meSend m) s = .next { s with trace := s.trace ++ [.meDiag .meSendBusy] })
    ∧ (s.me.bound = true → s.me.ts = false → s.me.txq = [] → exec (.meSend m) s = .next
        { s with me := { s.me with txq := [m] }, trace := s.trace ++ [.meTx s.cfg.meStart] })

/-- R34, R184: while unbound, no byte reaches the engine, whichever way it arrives (the binding is decision D9, log
entry 20). -/
def Obligations.UnboundEngineIgnoresBytes : Prop :=
  ∀ (s : State) (b : Byte) (x : Bytes) (v : U64), s.me.bound = false → ∀ i ∈
      [Instr.meRxByte b, .meRxChunk x, .meRxIdleStart b, .meRxIdleAck b, .meRxIdleOther b, .meRxLength b,
       .meRxPayload b, .msgStart, .msgAck, .msgNack, .msgLength v, .msgPayload x],
    exec i s = .next s

/-- R185: the Start byte in phase IDLE makes the engine the receiver, with the length accumulator and buffer cleared and
one Ack sent, whether or not a message is queued (decision D23). -/
def Obligations.StartByteIsAcknowledged : Prop :=
  ∀ s : State, s.me.bound = true → s.me.ts = false → ∀ i ∈
      [Instr.meRxIdleStart s.cfg.meStart, .meRxByte s.cfg.meStart, .meRxChunk [s.cfg.meStart], .msgStart],
    exec i s = .next
      { s with me := { s.me with ts := true, lk := false, cnt := 0, len := 0, rxbuf := [] }
               trace := s.trace ++ [.meTx s.cfg.meAck] }

/-- R186: the Ack byte in phase IDLE sends the length and the bytes of the head of the FIFO, contiguous, and removes it;
with an empty FIFO it is a diagnostic and no other change (decision D4). R6 (b) keeps it from being a Start. -/
def Obligations.AckByteReleasesTheMessage : Prop :=
  ∀ s : State, s.me.bound = true → s.me.ts = false → s.cfg.meAck ≠ s.cfg.meStart → ∀ i ∈
      [Instr.meRxIdleAck s.cfg.meAck, .meRxByte s.cfg.meAck, .meRxChunk [s.cfg.meAck], .msgAck],
    (∀ (m : Bytes) (q : List Bytes), s.me.txq = m :: q → exec i s = .next
      { s with me := { s.me with txq := q }, trace := s.trace ++ (lengthBytes m.length ++ m).map .meTx })
    ∧ (s.me.txq = [] → exec i s = .next { s with trace := s.trace ++ [.meDiag .meSpuriousAck] })

/-- R187, R225: any other byte in phase IDLE is answered with one Nack, and nothing changes; `ME_NACK` is such a byte in a
configuration that meets R6, so two idle engines answer each other's Nacks for ever (R276). -/
def Obligations.OtherIdleBytesAreNacked : Prop :=
  ∀ (s : State) (b : Byte), s.me.bound = true → s.me.ts = false →
    (b ≠ s.cfg.meStart → b ≠ s.cfg.meAck → ∀ i ∈ [Instr.meRxIdleOther b, .meRxByte b, .meRxChunk [b]],
      exec i s = .next { s with trace := s.trace ++ [.meTx s.cfg.meNack] })
    ∧ (s.cfg.Legal → exec .msgNack s = .next { s with trace := s.trace ++ [.meTx s.cfg.meNack] })

/-- R188: a length byte enters `me_len` at its low end and is counted; the eighth makes the length known and allocates the
buffer, or, for a length of 0, delivers the empty message at once (decision D5). With a buffer cap, a length above it has
no successor (decision D18). -/
def Obligations.LengthRowAccumulatesEightBytes : Prop :=
  ∀ (s : State) (b : Byte) (v : U64), s.me.bound = true → s.me.ts = true → s.me.lk = false →
    v.toNat = s.me.len.toNat % 2 ^ 56 * 256 + b.toNat → ∀ i ∈ [Instr.meRxLength b, .meRxByte b, .meRxChunk [b]],
    (s.me.cnt.toNat < 7 → exec i s = .next
      { s with me := { s.me with len := v, cnt := BitVec.ofNat 4 (s.me.cnt.toNat + 1) } })
    ∧ (s.me.cnt = 7 → v ≠ 0 → (∀ cap : Nat, s.cfg.meRxbufCap = some cap → v.toNat ≤ cap) → exec i s = .next
      { s with me := { s.me with len := v, cnt := 8, lk := true, rxbuf := [] } })
    ∧ (s.me.cnt = 7 → v = 0 → exec i s = .next
      { s with me := { s.me with ts := false, lk := false, cnt := 0, len := 0, rxbuf := [] }
               trace := s.trace ++ [.meDeliver []] })
    ∧ (s.me.cnt = 7 → (∃ cap : Nat, s.cfg.meRxbufCap = some cap ∧ cap < v.toNat) →
        exec i s = .refused (.rxbufCapExceeded v))

/-- R189 and R190: a payload byte is appended; the one that fills the declared length delivers the buffer and returns the
engine to idle, `me_txq` untouched and nothing sent (what is cleared is decision D6). -/
def Obligations.PayloadRowFillsAndDelivers : Prop :=
  ∀ (s : State) (b : Byte), s.me.bound = true → s.me.ts = true → s.me.lk = true → ∀ i ∈
      [Instr.meRxPayload b, .meRxByte b, .meRxChunk [b]],
    (s.me.rxbuf.length + 1 ≠ s.me.len.toNat → exec i s = .next { s with me := { s.me with rxbuf := s.me.rxbuf ++ [b] } })
    ∧ (s.me.rxbuf.length + 1 = s.me.len.toNat → exec i s = .next
      { s with me := { s.me with ts := false, lk := false, cnt := 0, len := 0, rxbuf := [] }
               trace := s.trace ++ [.meDeliver (s.me.rxbuf ++ [b])] })

/-- R88, R89: the eight bytes of a length, arriving at the start of phase RX_LENGTH, give that length; 0 completes at once
(decision D5). No cap is exceeded. -/
def Obligations.LengthFieldIsReceivedWhole : Prop :=
  ∀ (s : State) (v : U64), s.me.bound = true → s.me.ts = true → s.me.lk = false → s.me.cnt = 0 → s.me.len = 0 →
    (∀ cap : Nat, s.cfg.meRxbufCap = some cap → v.toNat ≤ cap) → ∀ i ∈
      [Instr.msgLength v, .meRxChunk (lengthBytes v.toNat)],
    (v ≠ 0 → exec i s = .next { s with me := { s.me with len := v, cnt := 8, lk := true, rxbuf := [] } })
    ∧ (v = 0 → exec i s = .next
      { s with me := { s.me with ts := false, lk := false, cnt := 0, len := 0, rxbuf := [] }
               trace := s.trace ++ [.meDeliver []] })

/-- R290, R189, R88: in phase RX_PAYLOAD the engine returns to idle after exactly `me_len - |me_rxbuf|` further bytes,
whatever they are, and delivers all of the message; after fewer it is still collecting (the clear is decision D6). -/
def Obligations.PayloadFieldIsDeliveredWhole : Prop :=
  ∀ (s : State) (x : Bytes), s.me.bound = true → s.me.ts = true → s.me.lk = true → s.me.rxbuf.length < s.me.len.toNat →
    ∀ i ∈ [Instr.msgPayload x, .meRxChunk x],
    (s.me.rxbuf.length + x.length = s.me.len.toNat → exec i s = .next
      { s with me := { s.me with ts := false, lk := false, cnt := 0, len := 0, rxbuf := [] }
               trace := s.trace ++ [.meDeliver (s.me.rxbuf ++ x)] })
    ∧ (s.me.rxbuf.length + x.length < s.me.len.toNat →
        exec i s = .next { s with me := { s.me with rxbuf := s.me.rxbuf ++ x } })

/-- R192: one transfer between two bound idle engines over a channel without errors, in any configuration that meets R6
and has no buffer cap: Start, Ack, the length and the message, one delivery of exactly the message, both engines idle.
That the empty message is delivered at the eighth length byte is decision D5 (log entry 19). -/
def Obligations.MessageTransferDeliversTheMessage : Prop :=
  ∀ (a b : State) (m : Bytes), a.cfg = b.cfg → a.cfg.Legal → a.cfg.meRxbufCap = none → m.length < 2 ^ 64 →
    a.me = meResting [] → b.me = meResting [] →
    ∃ a1 a2 b1 b2 : State,
      exec (.meSend m) a = .next a1 ∧ a1.trace = a.trace ++ [.meTx a.cfg.meStart]
      ∧ exec (.meRxChunk [a.cfg.meStart]) b = .next b1 ∧ b1.trace = b.trace ++ [.meTx a.cfg.meAck]
      ∧ exec (.meRxChunk [a.cfg.meAck]) a1 = .next a2
      ∧ a2.trace = a1.trace ++ (lengthBytes m.length ++ m).map .meTx
      ∧ exec (.meRxChunk (lengthBytes m.length ++ m)) b1 = .next b2 ∧ b2.trace = b1.trace ++ [.meDeliver m]
      ∧ a2.me = meResting [] ∧ b2.me = meResting [] ∧ a2.fe = a.fe ∧ b2.fe = b.fe

/-- R275: if each engine has sent its Start before the other's arrives, each becomes a receiver and counts the other's Ack
as a length byte: both are parked with their own message queued, nothing is delivered, and a further send is dropped
(decisions D23 and D3, log entries 24 and 17). -/
def Obligations.StartCollisionParksTheEngine : Prop :=
  ∀ (s : State) (m x : Bytes), s.me = meResting [m] → x.length < 2 ^ 64 →
    ∃ t : State, exec (.meRxChunk [s.cfg.meStart, s.cfg.meAck]) s = .next t
      ∧ t.me = { bound := true, ts := true, lk := false, cnt := 1, len := s.cfg.meAck.setWidth 64, rxbuf := []
                 txq := [m] }
      ∧ t.trace = s.trace ++ [.meTx s.cfg.meAck]
      ∧ exec (.meSend x) t = .next { t with trace := t.trace ++ [.meDiag .meSendBusy] }

/-! The block as a whole -/

/-- R27 and R35, with what makes them inductive (`State.Inv`): every step of every state that meets the invariant keeps
it. -/
def Obligations.EveryStepKeepsTheInvariant : Prop :=
  ∀ s t : State, s.Inv → step s = .next t → t.Inv

/-- R220: every operation is total. With no buffer cap configured (the value of R5), every well-formed operation answers
a next state in every state. -/
def Obligations.EveryOperationIsTotal : Prop :=
  ∀ (i : Instr) (s : State), i.wellFormed = true → s.cfg.meRxbufCap = none → ∃ t : State, exec i s = .next t

/-- An operation whose payload is longer than 255 bytes (R121, U8) or whose message is 2^64 bytes or longer (R183) cannot
be expressed, and the spec has no truncation rule. That the model's term for one is refused, as `payloadTooLong` or
`messageTooLong`, is the model's choice (log entry 10). -/
def Obligations.InexpressibleOperandsAreRefused : Prop :=
  ∀ (s : State) (number port : Byte) (k : Control) (x : Bytes),
    (255 < x.length → ∀ i ∈
      [Instr.frameEncode number port k x, .feSend number port k x, .frameTransmission number port x,
       .frameSuccess number port x, .frameCrcFail number port x, .frameWrongEnd number port x,
       .framePortNc number port x], exec i s = .refused .payloadTooLong)
    ∧ (2 ^ 64 ≤ x.length → exec (.meSend x) s = .refused .messageTooLong)

/-- R20, R39, R45, R70: an operation of one engine leaves the other engine, the configuration, the schedule and the last
codec result alone; a codec operation leaves both engines and every output port alone; and every operation only adds to
the effects so far. -/
def Obligations.EachOperationWritesItsOwnUnit : Prop :=
  ∀ (i : Instr) (s t : State), exec i s = .next t →
    t.cfg = s.cfg ∧ t.pending = s.pending ∧ (∃ new : List Effect, t.trace = s.trace ++ new)
    ∧ (onFrameEngine i = true → t.me = s.me ∧ t.ret = s.ret)
    ∧ (onMessageEngine i = true → t.fe = s.fe ∧ t.ret = s.ret)
    ∧ (onCodec i = true → t.fe = s.fe ∧ t.me = s.me ∧ t.trace = s.trace)

/-- R20, R70, R235: nothing is shared between the engines. What an operation of the Frame Engine does to it and adds to
the effects depends on the Frame Engine alone; the same for the Message Engine. -/
def Obligations.EnginesDoNotInfluenceEachOther : Prop :=
  ∀ (i : Instr) (s t s' : State), exec i s = .next s' → s.cfg = t.cfg →
    (onFrameEngine i = true → s.fe = t.fe →
      ∃ t' new, exec i t = .next t' ∧ t'.fe = s'.fe ∧ s'.trace = s.trace ++ new ∧ t'.trace = t.trace ++ new)
    ∧ (onMessageEngine i = true → s.me = t.me →
      ∃ t' new, exec i t = .next t' ∧ t'.me = s'.me ∧ s'.trace = s.trace ++ new ∧ t'.trace = t.trace ++ new)

/-- R233, R271: there is no time-out and no abort. Without a received byte, an unbinding or a reset, no operation moves
either sequencing state, and no queued message leaves the FIFO. -/
def Obligations.LocalCommandsDoNotAdvanceReception : Prop :=
  ∀ (i : Instr) (s t : State), isLocalCommand i = true → exec i s = .next t →
    t.fe = { s.fe with reg := t.fe.reg }
    ∧ t.me = { s.me with bound := t.me.bound, txq := t.me.txq }
    ∧ ∃ q : List Bytes, t.me.txq = s.me.txq ++ q
end

