-- ==== Sys2Proof/Laws/State.lean ====
section
/-! SUPPORT. One lemma per field and update: what each named operation of Machine/Ops.lean leaves in each field of
State, so that no proof unfolds a record update. -/

namespace Sys2Proof.Machine

@[simp] theorem State.emit_cfg (s : State) (es : List Effect) : (s.emit es).cfg = s.cfg := rfl
@[simp] theorem State.emit_fe (s : State) (es : List Effect) : (s.emit es).fe = s.fe := rfl
@[simp] theorem State.emit_me (s : State) (es : List Effect) : (s.emit es).me = s.me := rfl
@[simp] theorem State.emit_pending (s : State) (es : List Effect) : (s.emit es).pending = s.pending := rfl
@[simp] theorem State.emit_trace (s : State) (es : List Effect) : (s.emit es).trace = s.trace ++ es := rfl
@[simp] theorem State.emit_ret (s : State) (es : List Effect) : (s.emit es).ret = s.ret := rfl

@[simp] theorem State.feTransmit_cfg (s : State) (x : Bytes) : (s.feTransmit x).cfg = s.cfg := rfl
@[simp] theorem State.feTransmit_fe (s : State) (x : Bytes) : (s.feTransmit x).fe = s.fe := rfl
@[simp] theorem State.feTransmit_me (s : State) (x : Bytes) : (s.feTransmit x).me = s.me := rfl
@[simp] theorem State.feTransmit_pending (s : State) (x : Bytes) : (s.feTransmit x).pending = s.pending := rfl
@[simp] theorem State.feTransmit_trace (s : State) (x : Bytes) : (s.feTransmit x).trace = s.trace ++ x.map Effect.feTx := rfl
@[simp] theorem State.feTransmit_ret (s : State) (x : Bytes) : (s.feTransmit x).ret = s.ret := rfl

@[simp] theorem State.feDeliver_cfg (s : State) (h : HandlerId) (f : Frame) : (s.feDeliver h f).cfg = s.cfg := rfl
@[simp] theorem State.feDeliver_fe (s : State) (h : HandlerId) (f : Frame) : (s.feDeliver h f).fe = s.fe := rfl
@[simp] theorem State.feDeliver_me (s : State) (h : HandlerId) (f : Frame) : (s.feDeliver h f).me = s.me := rfl
@[simp] theorem State.feDeliver_pending (s : State) (h : HandlerId) (f : Frame) : (s.feDeliver h f).pending = s.pending := rfl
@[simp] theorem State.feDeliver_trace (s : State) (h : HandlerId) (f : Frame) : (s.feDeliver h f).trace = s.trace ++ [.feDeliver h f] := rfl
@[simp] theorem State.feDeliver_ret (s : State) (h : HandlerId) (f : Frame) : (s.feDeliver h f).ret = s.ret := rfl

@[simp] theorem State.feDrop_cfg (s : State) (d : Diag) : (s.feDrop d).cfg = s.cfg := rfl
@[simp] theorem State.feDrop_fe (s : State) (d : Diag) : (s.feDrop d).fe = s.fe := rfl
@[simp] theorem State.feDrop_me (s : State) (d : Diag) : (s.feDrop d).me = s.me := rfl
@[simp] theorem State.feDrop_pending (s : State) (d : Diag) : (s.feDrop d).pending = s.pending := rfl
@[simp] theorem State.feDrop_trace (s : State) (d : Diag) : (s.feDrop d).trace = s.trace ++ [.feDiag d] := rfl
@[simp] theorem State.feDrop_ret (s : State) (d : Diag) : (s.feDrop d).ret = s.ret := rfl

@[simp] theorem State.meTransmit_cfg (s : State) (x : Bytes) : (s.meTransmit x).cfg = s.cfg := rfl
@[simp] theorem State.meTransmit_fe (s : State) (x : Bytes) : (s.meTransmit x).fe = s.fe := rfl
@[simp] theorem State.meTransmit_me (s : State) (x : Bytes) : (s.meTransmit x).me = s.me := rfl
@[simp] theorem State.meTransmit_pending (s : State) (x : Bytes) : (s.meTransmit x).pending = s.pending := rfl
@[simp] theorem State.meTransmit_trace (s : State) (x : Bytes) : (s.meTransmit x).trace = s.trace ++ x.map Effect.meTx := rfl
@[simp] theorem State.meTransmit_ret (s : State) (x : Bytes) : (s.meTransmit x).ret = s.ret := rfl

@[simp] theorem State.meDeliver_cfg (s : State) (x : Bytes) : (s.meDeliver x).cfg = s.cfg := rfl
@[simp] theorem State.meDeliver_fe (s : State) (x : Bytes) : (s.meDeliver x).fe = s.fe := rfl
@[simp] theorem State.meDeliver_me (s : State) (x : Bytes) : (s.meDeliver x).me = s.me := rfl
@[simp] theorem State.meDeliver_pending (s : State) (x : Bytes) : (s.meDeliver x).pending = s.pending := rfl
@[simp] theorem State.meDeliver_trace (s : State) (x : Bytes) : (s.meDeliver x).trace = s.trace ++ [.meDeliver x] := rfl
@[simp] theorem State.meDeliver_ret (s : State) (x : Bytes) : (s.meDeliver x).ret = s.ret := rfl

@[simp] theorem State.meDrop_cfg (s : State) (d : Diag) : (s.meDrop d).cfg = s.cfg := rfl
@[simp] theorem State.meDrop_fe (s : State) (d : Diag) : (s.meDrop d).fe = s.fe := rfl
@[simp] theorem State.meDrop_me (s : State) (d : Diag) : (s.meDrop d).me = s.me := rfl
@[simp] theorem State.meDrop_pending (s : State) (d : Diag) : (s.meDrop d).pending = s.pending := rfl
@[simp] theorem State.meDrop_trace (s : State) (d : Diag) : (s.meDrop d).trace = s.trace ++ [.meDiag d] := rfl
@[simp] theorem State.meDrop_ret (s : State) (d : Diag) : (s.meDrop d).ret = s.ret := rfl

@[simp] theorem State.answer_cfg (s : State) (r : CodecResult) : (s.answer r).cfg = s.cfg := rfl
@[simp] theorem State.answer_fe (s : State) (r : CodecResult) : (s.answer r).fe = s.fe := rfl
@[simp] theorem State.answer_me (s : State) (r : CodecResult) : (s.answer r).me = s.me := rfl
@[simp] theorem State.answer_pending (s : State) (r : CodecResult) : (s.answer r).pending = s.pending := rfl
@[simp] theorem State.answer_trace (s : State) (r : CodecResult) : (s.answer r).trace = s.trace := rfl
@[simp] theorem State.answer_ret (s : State) (r : CodecResult) : (s.answer r).ret = some r := rfl

@[simp] theorem State.withFe_cfg (s : State) (f : FrameEngine) : (s.withFe f).cfg = s.cfg := rfl
@[simp] theorem State.withFe_fe (s : State) (f : FrameEngine) : (s.withFe f).fe = f := rfl
@[simp] theorem State.withFe_me (s : State) (f : FrameEngine) : (s.withFe f).me = s.me := rfl
@[simp] theorem State.withFe_pending (s : State) (f : FrameEngine) : (s.withFe f).pending = s.pending := rfl
@[simp] theorem State.withFe_trace (s : State) (f : FrameEngine) : (s.withFe f).trace = s.trace := rfl
@[simp] theorem State.withFe_ret (s : State) (f : FrameEngine) : (s.withFe f).ret = s.ret := rfl

@[simp] theorem State.withMe_cfg (s : State) (m : MessageEngine) : (s.withMe m).cfg = s.cfg := rfl
@[simp] theorem State.withMe_fe (s : State) (m : MessageEngine) : (s.withMe m).fe = s.fe := rfl
@[simp] theorem State.withMe_me (s : State) (m : MessageEngine) : (s.withMe m).me = m := rfl
@[simp] theorem State.withMe_pending (s : State) (m : MessageEngine) : (s.withMe m).pending = s.pending := rfl
@[simp] theorem State.withMe_trace (s : State) (m : MessageEngine) : (s.withMe m).trace = s.trace := rfl
@[simp] theorem State.withMe_ret (s : State) (m : MessageEngine) : (s.withMe m).ret = s.ret := rfl

@[simp] theorem State.feFinish_cfg (s : State) : s.feFinish.cfg = s.cfg := rfl
@[simp] theorem State.feFinish_fe (s : State) : s.feFinish.fe = { s.fe.clear with state := .idle } := rfl
@[simp] theorem State.feFinish_me (s : State) : s.feFinish.me = s.me := rfl
@[simp] theorem State.feFinish_pending (s : State) : s.feFinish.pending = s.pending := rfl
@[simp] theorem State.feFinish_trace (s : State) : s.feFinish.trace = s.trace := rfl
@[simp] theorem State.feFinish_ret (s : State) : s.feFinish.ret = s.ret := rfl

@[simp] theorem State.feReply_cfg (s : State) (n p : Byte) (k : Control) : (s.feReply n p k).cfg = s.cfg := rfl
@[simp] theorem State.feReply_fe (s : State) (n p : Byte) (k : Control) : (s.feReply n p k).fe = s.fe := rfl
@[simp] theorem State.feReply_me (s : State) (n p : Byte) (k : Control) : (s.feReply n p k).me = s.me := rfl
@[simp] theorem State.feReply_pending (s : State) (n p : Byte) (k : Control) : (s.feReply n p k).pending = s.pending := rfl
@[simp] theorem State.feReply_trace (s : State) (n p : Byte) (k : Control) : (s.feReply n p k).trace = s.trace ++ (replyImage s.cfg n p k).map Effect.feTx := rfl
@[simp] theorem State.feReply_ret (s : State) (n p : Byte) (k : Control) : (s.feReply n p k).ret = s.ret := rfl

@[simp] theorem State.feReject_cfg (s : State) (k : Control) : (s.feReject k).cfg = s.cfg := rfl
@[simp] theorem State.feReject_fe (s : State) (k : Control) : (s.feReject k).fe = { s.fe.clear with state := .idle } := rfl
@[simp] theorem State.feReject_me (s : State) (k : Control) : (s.feReject k).me = s.me := rfl
@[simp] theorem State.feReject_pending (s : State) (k : Control) : (s.feReject k).pending = s.pending := rfl
@[simp] theorem State.feReject_trace (s : State) (k : Control) : (s.feReject k).trace = s.trace ++ (replyImage s.cfg s.fe.num s.fe.port k).map Effect.feTx := rfl
@[simp] theorem State.feReject_ret (s : State) (k : Control) : (s.feReject k).ret = s.ret := rfl

@[simp] theorem State.meReject_cfg (s : State) : s.meReject.cfg = s.cfg := rfl
@[simp] theorem State.meReject_fe (s : State) : s.meReject.fe = s.fe := rfl
@[simp] theorem State.meReject_me (s : State) : s.meReject.me = s.me := rfl
@[simp] theorem State.meReject_pending (s : State) : s.meReject.pending = s.pending := rfl
@[simp] theorem State.meReject_trace (s : State) : s.meReject.trace = s.trace ++ [.meTx s.cfg.meNack] := rfl
@[simp] theorem State.meReject_ret (s : State) : s.meReject.ret = s.ret := rfl

@[simp] theorem State.meComplete_cfg (s : State) : s.meComplete.cfg = s.cfg := rfl
@[simp] theorem State.meComplete_fe (s : State) : s.meComplete.fe = s.fe := rfl
@[simp] theorem State.meComplete_me (s : State) : s.meComplete.me = { s.me with ts := false, lk := false, cnt := 0, len := 0, rxbuf := [] } := rfl
@[simp] theorem State.meComplete_pending (s : State) : s.meComplete.pending = s.pending := rfl
@[simp] theorem State.meComplete_trace (s : State) : s.meComplete.trace = s.trace ++ [.meDeliver s.me.rxbuf] := rfl
@[simp] theorem State.meComplete_ret (s : State) : s.meComplete.ret = s.ret := rfl

@[simp] theorem FrameEngine.clear_state (f : FrameEngine) : f.clear.state = f.state := rfl
@[simp] theorem FrameEngine.clear_len (f : FrameEngine) : f.clear.len = 0 := rfl
@[simp] theorem FrameEngine.clear_num (f : FrameEngine) : f.clear.num = 0 := rfl
@[simp] theorem FrameEngine.clear_port (f : FrameEngine) : f.clear.port = 0 := rfl
@[simp] theorem FrameEngine.clear_ctrl (f : FrameEngine) : f.clear.ctrl = 0 := rfl
@[simp] theorem FrameEngine.clear_payload (f : FrameEngine) : f.clear.payload = [] := rfl
@[simp] theorem FrameEngine.clear_crc (f : FrameEngine) : f.clear.crc = 0 := rfl
@[simp] theorem FrameEngine.clear_payRem (f : FrameEngine) : f.clear.payRem = 0 := rfl
@[simp] theorem FrameEngine.clear_crcRem (f : FrameEngine) : f.clear.crcRem = 2 := rfl
@[simp] theorem FrameEngine.clear_reg (f : FrameEngine) : f.clear.reg = f.reg := rfl

@[simp] theorem State.initial_cfg (c : Config) : (State.initial c).cfg = c := rfl
@[simp] theorem State.initial_fe (c : Config) : (State.initial c).fe = FrameEngine.initial := rfl
@[simp] theorem State.initial_me (c : Config) : (State.initial c).me = MessageEngine.initial := rfl
@[simp] theorem State.initial_pending (c : Config) : (State.initial c).pending = [] := rfl
@[simp] theorem State.initial_trace (c : Config) : (State.initial c).trace = [] := rfl
@[simp] theorem State.initial_ret (c : Config) : (State.initial c).ret = none := rfl

/-- Two states with the same fields are the same state. -/
theorem State.ext_fields {s t : State} (hc : s.cfg = t.cfg) (hf : s.fe = t.fe) (hm : s.me = t.me)
    (hp : s.pending = t.pending) (ht : s.trace = t.trace) (hr : s.ret = t.ret) : s = t := by
  cases s; cases t; simp_all

end Sys2Proof.Machine
end

