-- ==== Sys2Proof/Laws/Codec.lean ====
section
/-! SUPPORT. Spec lemmas of the codec's pure functions: lengths, values as numbers, and the algebra of the CRC step. -/

namespace Sys2Proof.Machine

@[simp] theorem serializeU16_length (v : U16) : (serializeU16 v).length = 2 := rfl

@[simp] theorem serializeU64_length (v : U64) : (serializeU64 v).length = 8 := rfl

theorem deserializeU16_toNat (b0 b1 : Byte) : (deserializeU16 b0 b1).toNat = b0.toNat * 256 + b1.toNat := by
  simp only [deserializeU16, BitVec.toNat_append]
  rw [← Nat.shiftLeft_add_eq_or_of_lt b1.isLt]
  simp [Nat.shiftLeft_eq]

theorem shiftInU16_toNat (acc : U16) (b : Byte) : (shiftInU16 acc b).toNat = acc.toNat % 256 * 256 + b.toNat := by
  simp only [shiftInU16, BitVec.toNat_append]
  rw [← Nat.shiftLeft_add_eq_or_of_lt b.isLt]
  simp [Nat.shiftLeft_eq]

theorem shiftInU64_toNat (acc : U64) (b : Byte) :
    (shiftInU64 acc b).toNat = acc.toNat % 2 ^ 56 * 256 + b.toNat := by
  simp only [shiftInU64, BitVec.toNat_append]
  rw [← Nat.shiftLeft_add_eq_or_of_lt b.isLt]
  simp [Nat.shiftLeft_eq]

@[simp] theorem frameImageRaw_length (c : Config) (n p k : Byte) (x : Bytes) :
    (frameImageRaw c n p k x).length = x.length + 8 := by
  simp [frameImageRaw]

/-- The image of an empty payload, written out (R86). -/
theorem replyImage_eq (c : Config) (n p : Byte) (k : Control) :
    replyImage c n p k = [c.frameStart, 0, n, p, wireCode c k, 0, 0, c.frameEnd] := rfl

/-- Within R6 (a) a member is read back from its wire code. -/
theorem controlOfCode_wireCode {c : Config} (h : c.ControlsDistinct) (k : Control) :
    controlOfCode c (wireCode c k) = some k := by
  simp only [Config.ControlsDistinct, List.nodup_cons, List.mem_cons, List.not_mem_nil, or_false, not_or] at h
  obtain ⟨⟨h1, h2, h3, h4⟩, ⟨h5, h6, h7⟩, ⟨h8, h9⟩, h10, -⟩ := h
  cases k <;> simp [controlOfCode, wireCode, Ne.symm h1, Ne.symm h2, Ne.symm h3, Ne.symm h4, Ne.symm h5, Ne.symm h6,
    Ne.symm h7, Ne.symm h8, Ne.symm h9, Ne.symm h10]

/-- A control byte that is the code of a member is that member's code. -/
theorem wireCode_of_controlOfCode {c : Config} {b : Byte} {k : Control} (h : controlOfCode c b = some k) :
    wireCode c k = b := by
  unfold controlOfCode at h
  split at h
  · simp_all [wireCode]; subst h; simp [*]
  · split at h
    · simp_all [wireCode]; subst h; simp [*]
    · split at h
      · simp_all [wireCode]; subst h; simp [*]
      · split at h
        · simp_all [wireCode]; subst h; simp [*]
        · split at h
          · simp_all [wireCode]; subst h; simp [*]
          · cases h

theorem controlOfIndex_controlIndex (k : Control) : controlOfIndex (controlIndex k) = some k := by
  cases k <;> rfl

theorem crcFold_nil (c : U16) : crcFold c [] = c := rfl

theorem crcFold_cons (c : U16) (b : Byte) (s : Bytes) : crcFold c (b :: s) = crcFold (crcStep c b) s := rfl

theorem crcFold_append (c : U16) (s t : Bytes) : crcFold c (s ++ t) = crcFold (crcFold c s) t :=
  List.foldl_append

/-- One iteration is linear. -/
theorem crcShift_xor (a b : U16) : crcShift (a ^^^ b) = crcShift a ^^^ crcShift b := by
  have h : (a ^^^ b) >>> 1 = (a >>> 1) ^^^ (b >>> 1) := by
    ext i hi
    simp
  have hx : ∀ x y p : U16, x ^^^ p ^^^ (y ^^^ p) = x ^^^ y := by
    intro x y p
    rw [BitVec.xor_comm y p, ← BitVec.xor_assoc, BitVec.xor_assoc x p p]
    simp
  simp only [crcShift, BitVec.getLsbD_xor, h]
  cases a.getLsbD 0 <;> cases b.getLsbD 0 <;> simp [hx, BitVec.xor_assoc]
  rw [BitVec.xor_comm (b >>> 1)]

/-- The step is linear in register and byte together. -/
theorem crcStep_xor (x y : U16) (a b : Byte) : crcStep (x ^^^ y) (a ^^^ b) = crcStep x a ^^^ crcStep y b := by
  have h : x ^^^ y ^^^ (a ^^^ b).setWidth 16 = (x ^^^ a.setWidth 16) ^^^ (y ^^^ b.setWidth 16) := by
    ext i hi
    simp only [BitVec.getElem_xor, BitVec.getElem_setWidth, BitVec.getLsbD_xor]
    cases x[i] <;> cases y[i] <;> cases a.getLsbD i <;> cases b.getLsbD i <;> rfl
  simp only [crcStep, h, crcShift_xor]

end Sys2Proof.Machine
end

