-- ==== Sys2Proof/Laws/Ops.lean ====
section
/-! SUPPORT. Spec lemmas of the registry and of sequential composition: what each can do, said once. -/

namespace Sys2Proof.Machine

theorem andThen_eq_next {r : Result} {k : State → Result} {t : State} :
    andThen r k = .next t ↔ ∃ u, r = .next u ∧ k u = .next t := by
  cases r <;> simp [andThen]

theorem andThen_next (s : State) (k : State → Result) : andThen (.next s) k = k s := rfl

theorem andThen_assoc (r : Result) (k l : State → Result) :
    andThen (andThen r k) l = andThen r (fun s => andThen (k s) l) := by
  cases r <;> rfl

@[simp] theorem Registry.slot_nil (p : Byte) : Registry.slot [] p = none := rfl

theorem Registry.slot_cons (q : Byte) (h : HandlerId) (r : Registry) (p : Byte) :
    Registry.slot ((q, h) :: r) p = if p = q then some h else Registry.slot r p := rfl

/-- A filled slot holds its handler. -/
theorem Registry.slot_fill_self (r : Registry) (p : Byte) (h : HandlerId) : (r.fill p h).slot p = some h := by
  induction r with
  | nil => simp [Registry.fill, Registry.slot]
  | cons x r ih =>
    obtain ⟨q, k⟩ := x
    unfold Registry.fill
    split
    · simp [Registry.slot]
    · split
      · simp [Registry.slot]
      · simp [Registry.slot, *]

/-- Filling a slot leaves every other slot alone. -/
theorem Registry.slot_fill_other (r : Registry) (p q : Byte) (h : HandlerId) (hq : q ≠ p) :
    (r.fill p h).slot q = r.slot q := by
  induction r with
  | nil => simp [Registry.fill, Registry.slot, hq]
  | cons x r ih =>
    obtain ⟨a, k⟩ := x
    unfold Registry.fill
    split
    · rename_i hpa
      subst hpa
      simp [Registry.slot, hq]
    · split
      · simp [Registry.slot, hq]
      · simp [Registry.slot, ih]

theorem Registry.mem_fill {r : Registry} {p : Byte} {h : HandlerId} {x : Byte × HandlerId}
    (hx : x ∈ r.fill p h) : x = (p, h) ∨ x ∈ r := by
  induction r with
  | nil => simpa [Registry.fill] using hx
  | cons y r ih =>
    obtain ⟨q, k⟩ := y
    unfold Registry.fill at hx
    split at hx
    · simp only [List.mem_cons] at hx ⊢
      tauto
    · split at hx
      · simp only [List.mem_cons] at hx ⊢
        tauto
      · simp only [List.mem_cons] at hx ⊢
        rcases hx with hx | hx
        · tauto
        · rcases ih hx with h1 | h1 <;> tauto

/-- Filling a slot keeps the canonical form. -/
theorem Registry.fill_canonical {r : Registry} (hr : r.Canonical) (p : Byte) (h : HandlerId) :
    (r.fill p h).Canonical := by
  induction r with
  | nil => simp [Registry.fill, Registry.Canonical]
  | cons y r ih =>
    obtain ⟨q, k⟩ := y
    simp only [Registry.Canonical, List.pairwise_cons] at hr ih ⊢
    unfold Registry.fill
    split
    · rename_i hpq
      subst hpq
      simpa using hr
    · rename_i hne
      split
      · rename_i hlt
        simp only [List.pairwise_cons, List.mem_cons]
        refine ⟨?_, hr⟩
        rintro x (rfl | hx)
        · exact hlt
        · exact hlt.trans (hr.1 x hx)
      · rename_i hge
        simp only [List.pairwise_cons]
        refine ⟨?_, ih hr.2⟩
        intro x hx
        rcases Registry.mem_fill hx with rfl | hx
        · have : q.toNat ≠ p.toNat := fun e => hne (BitVec.eq_of_toNat_eq e.symm)
          simp only
          omega
        · exact hr.1 x hx

end Sys2Proof.Machine
end

