-- ==== Sys2Proof/Laws/FrameEngine.lean ====
section
/-! SUPPORT. What the byte-fed function of the Frame Engine can do, said once: its row in each state, its frame, and the
effects it may add. -/

namespace Sys2Proof.Machine

theorem feReceive_idle_start {s : State} (h : s.fe.state = .idle) : feReceive s.cfg.frameStart s = feIdleStart s := by
  simp [feReceive, h]

theorem feReceive_idle_other {s : State} {b : Byte} (h : s.fe.state = .idle) (hb : b ≠ s.cfg.frameStart) :
    feReceive b s = s := by
  simp [feReceive, h, hb, feIdleOther]

theorem feReceive_length {s : State} (b : Byte) (h : s.fe.state = .length) : feReceive b s = feLength b s := by
  simp [feReceive, h]

theorem feReceive_number {s : State} (b : Byte) (h : s.fe.state = .number) : feReceive b s = feNumber b s := by
  simp [feReceive, h]

theorem feReceive_port {s : State} (b : Byte) (h : s.fe.state = .port) : feReceive b s = fePort b s := by
  simp [feReceive, h]

theorem feReceive_control {s : State} (b : Byte) (h : s.fe.state = .control) : feReceive b s = feControl b s := by
  simp [feReceive, h]

theorem feReceive_payload {s : State} (b : Byte) (h : s.fe.state = .payload) : feReceive b s = fePayload b s := by
  simp [feReceive, h]

theorem feReceive_crc {s : State} (b : Byte) (h : s.fe.state = .crc) : feReceive b s = feCrc b s := by
  simp [feReceive, h]

theorem feReceive_end {s : State} (b : Byte) (h : s.fe.state = .endByte) : feReceive b s = feEnd b s := by
  simp [feReceive, h]

/-- The END policy: which branch runs, and what it leaves. -/
theorem feEnd_cases (b : Byte) (s : State) :
    (s.fe.reg.slot s.fe.port = none ∧ feEnd b s = s.feReject .portNotConnect)
    ∨ ∃ h, s.fe.reg.slot s.fe.port = some h ∧
      ((crcOf s.fe.payload ≠ s.fe.crc ∧ feEnd b s = s.feReject .crcChecksumFailed)
      ∨ (crcOf s.fe.payload = s.fe.crc ∧ b ≠ s.cfg.frameEnd ∧ feEnd b s = s.feReject .wrongEndByte)
      ∨ (crcOf s.fe.payload = s.fe.crc ∧ b = s.cfg.frameEnd ∧ s.fe.ctrl = s.cfg.ctrlTransmission
          ∧ feEnd b s = ((s.feReply s.fe.num s.fe.port .success).feDeliver h s.fe.frame).feFinish)
      ∨ (crcOf s.fe.payload = s.fe.crc ∧ b = s.cfg.frameEnd ∧ s.fe.ctrl ≠ s.cfg.ctrlTransmission
          ∧ feEnd b s = s.feFinish)) := by
  unfold feEnd
  cases hs : s.fe.reg.slot s.fe.port with
  | none => exact .inl ⟨rfl, rfl⟩
  | some h =>
    refine .inr ⟨h, rfl, ?_⟩
    by_cases h1 : crcOf s.fe.payload = s.fe.crc
    · by_cases h2 : b = s.cfg.frameEnd
      · by_cases h3 : s.fe.ctrl = s.cfg.ctrlTransmission
        · exact .inr (.inr (.inl ⟨h1, h2, h3, by simp [h1, h2, h3]⟩))
        · exact .inr (.inr (.inr ⟨h1, h2, h3, by simp [h1, h2, h3]⟩))
      · exact .inr (.inl ⟨h1, h2, by simp [h1, h2]⟩)
    · exact .inl ⟨h1, by simp [h1]⟩

/-- Whatever branch of the END policy runs, the engine is in IDLE with a clear accumulator (R158). -/
theorem feEnd_fe (b : Byte) (s : State) : (feEnd b s).fe = { s.fe.clear with state := .idle } := by
  rcases feEnd_cases b s with ⟨-, h⟩ | ⟨k, -, ⟨-, h⟩ | ⟨-, -, h⟩ | ⟨-, -, -, h⟩ | ⟨-, -, -, h⟩⟩ <;>
    rw [h] <;> rfl

/-- What a received byte leaves alone. -/
theorem feReceive_frame (b : Byte) (s : State) :
    (feReceive b s).cfg = s.cfg ∧ (feReceive b s).me = s.me ∧ (feReceive b s).pending = s.pending
    ∧ (feReceive b s).ret = s.ret ∧ (feReceive b s).fe.reg = s.fe.reg := by
  cases h : s.fe.state
  case endByte =>
    rw [feReceive_end b h]
    rcases feEnd_cases b s with ⟨-, e⟩ | ⟨k, -, ⟨-, e⟩ | ⟨-, -, e⟩ | ⟨-, -, -, e⟩ | ⟨-, -, -, e⟩⟩ <;>
      rw [e] <;> exact ⟨rfl, rfl, rfl, rfl, rfl⟩
  case idle =>
    simp only [feReceive, h]
    split <;> exact ⟨rfl, rfl, rfl, rfl, rfl⟩
  all_goals
    simp only [feReceive, h]
    exact ⟨rfl, rfl, rfl, rfl, rfl⟩

/-- Outside END a received byte has no effect. -/
theorem feReceive_trace_of_ne {s : State} (b : Byte) (h : s.fe.state ≠ .endByte) :
    (feReceive b s).trace = s.trace := by
  cases hs : s.fe.state
  case endByte => exact absurd hs h
  case idle =>
    simp only [feReceive, hs]
    split <;> rfl
  all_goals
    simp only [feReceive, hs]
    rfl

/-- What a whole chunk leaves alone. -/
theorem feReceiveAll_frame (x : Bytes) (s : State) :
    (feReceiveAll x s).cfg = s.cfg ∧ (feReceiveAll x s).me = s.me ∧ (feReceiveAll x s).pending = s.pending
    ∧ (feReceiveAll x s).ret = s.ret ∧ (feReceiveAll x s).fe.reg = s.fe.reg := by
  induction x generalizing s with
  | nil => exact ⟨rfl, rfl, rfl, rfl, rfl⟩
  | cons b x ih =>
    obtain ⟨h1, h2, h3, h4, h5⟩ := ih (feReceive b s)
    obtain ⟨k1, k2, k3, k4, k5⟩ := feReceive_frame b s
    exact ⟨h1.trans k1, h2.trans k2, h3.trans k3, h4.trans k4, h5.trans k5⟩

theorem feReceiveAll_cons (b : Byte) (x : Bytes) (s : State) :
    feReceiveAll (b :: x) s = feReceiveAll x (feReceive b s) := rfl

end Sys2Proof.Machine
end

