-- ==== Sys2Proof/Laws/MessageEngine.lean ====
section
/-! SUPPORT. What the byte-fed function of the Message Engine can do, said once: its row in each phase and its frame. -/

namespace Sys2Proof.Machine

theorem meReceive_unbound {s : State} (b : Byte) (h : s.me.bound = false) : meReceive b s = .next s := by
  simp [meReceive, h]

theorem meReceive_idle_start {s : State} (hb : s.me.bound = true) (ht : s.me.ts = false) :
    meReceive s.cfg.meStart s = .next (meIdleStart s) := by
  simp [meReceive, hb, ht]

theorem meReceive_idle_ack {s : State} (hb : s.me.bound = true) (ht : s.me.ts = false)
    (hc : s.cfg.meAck ≠ s.cfg.meStart) : meReceive s.cfg.meAck s = .next (meIdleAck s) := by
  simp [meReceive, hb, ht, hc]

theorem meReceive_idle_other {s : State} {b : Byte} (hb : s.me.bound = true) (ht : s.me.ts = false)
    (h1 : b ≠ s.cfg.meStart) (h2 : b ≠ s.cfg.meAck) : meReceive b s = .next (meIdleOther s) := by
  simp [meReceive, hb, ht, h1, h2]

theorem meReceive_length {s : State} (b : Byte) (hb : s.me.bound = true) (ht : s.me.ts = true) (hl : s.me.lk = false) :
    meReceive b s = meLength b s := by
  simp [meReceive, hb, ht, hl]

theorem meReceive_payload {s : State} (b : Byte) (hb : s.me.bound = true) (ht : s.me.ts = true) (hl : s.me.lk = true) :
    meReceive b s = .next (mePayload b s) := by
  simp [meReceive, hb, ht, hl]

/-- The rows a received byte can run. -/
theorem meReceive_cases (b : Byte) (s : State) :
    (s.me.bound = false ∧ meReceive b s = .next s)
    ∨ (s.me.bound = true ∧ s.me.ts = false ∧ b = s.cfg.meStart ∧ meReceive b s = .next (meIdleStart s))
    ∨ (s.me.bound = true ∧ s.me.ts = false ∧ b ≠ s.cfg.meStart ∧ b = s.cfg.meAck
        ∧ meReceive b s = .next (meIdleAck s))
    ∨ (s.me.bound = true ∧ s.me.ts = false ∧ b ≠ s.cfg.meStart ∧ b ≠ s.cfg.meAck
        ∧ meReceive b s = .next (meIdleOther s))
    ∨ (s.me.bound = true ∧ s.me.ts = true ∧ s.me.lk = false ∧ meReceive b s = meLength b s)
    ∨ (s.me.bound = true ∧ s.me.ts = true ∧ s.me.lk = true ∧ meReceive b s = .next (mePayload b s)) := by
  cases hb : s.me.bound
  · exact .inl ⟨rfl, meReceive_unbound b hb⟩
  · cases ht : s.me.ts
    · by_cases h1 : b = s.cfg.meStart
      · subst h1
        exact .inr (.inl ⟨rfl, rfl, rfl, meReceive_idle_start hb ht⟩)
      · by_cases h2 : b = s.cfg.meAck
        · subst h2
          exact .inr (.inr (.inl ⟨rfl, rfl, h1, rfl, meReceive_idle_ack hb ht h1⟩))
        · exact .inr (.inr (.inr (.inl ⟨rfl, rfl, h1, h2, meReceive_idle_other hb ht h1 h2⟩)))
    · cases hl : s.me.lk
      · exact .inr (.inr (.inr (.inr (.inl ⟨rfl, rfl, rfl, meReceive_length b hb ht hl⟩))))
      · exact .inr (.inr (.inr (.inr (.inr ⟨rfl, rfl, rfl, meReceive_payload b hb ht hl⟩))))

/-- The outcomes of the length row (R188). -/
theorem meLength_cases (b : Byte) (s : State) :
    (s.me.cnt + 1 ≠ 8
      ∧ meLength b s = .next (s.withMe { s.me with len := shiftInU64 s.me.len b, cnt := s.me.cnt + 1 }))
    ∨ (s.me.cnt + 1 = 8 ∧ capExceeded s.cfg (shiftInU64 s.me.len b) = true
      ∧ meLength b s = .refused (.rxbufCapExceeded (shiftInU64 s.me.len b)))
    ∨ (s.me.cnt + 1 = 8 ∧ capExceeded s.cfg (shiftInU64 s.me.len b) = false ∧ shiftInU64 s.me.len b = 0
      ∧ meLength b s = .next ((s.withMe { s.me with len := 0, cnt := 8, lk := true, rxbuf := [] }).meComplete))
    ∨ (s.me.cnt + 1 = 8 ∧ capExceeded s.cfg (shiftInU64 s.me.len b) = false ∧ shiftInU64 s.me.len b ≠ 0
      ∧ meLength b s
        = .next (s.withMe { s.me with len := shiftInU64 s.me.len b, cnt := 8, lk := true, rxbuf := [] })) := by
  by_cases h8 : s.me.cnt + 1 = 8
  · cases hc : capExceeded s.cfg (shiftInU64 s.me.len b)
    · by_cases h0 : shiftInU64 s.me.len b = 0
      · refine .inr (.inr (.inl ⟨h8, rfl, h0, ?_⟩))
        simp only [meLength]
        rw [if_pos h8, hc, if_neg Bool.false_ne_true, if_pos h0, h0, h8]
        rfl
      · refine .inr (.inr (.inr ⟨h8, rfl, h0, ?_⟩))
        simp only [meLength]
        rw [if_pos h8, hc, if_neg Bool.false_ne_true, if_neg h0, h8]
        rfl
    · refine .inr (.inl ⟨h8, rfl, ?_⟩)
      simp only [meLength]
      rw [if_pos h8, hc, if_pos rfl]
  · refine .inl ⟨h8, ?_⟩
    simp only [meLength]
    rw [if_neg h8]

/-- The payload row (R189) with its last byte and before it. -/
theorem mePayload_last {s : State} (b : Byte) (h : s.me.rxbuf.length + 1 = s.me.len.toNat) :
    mePayload b s = (s.withMe { s.me with rxbuf := s.me.rxbuf ++ [b] }).meComplete := by
  simp [mePayload, MessageEngine.filled, h]

theorem mePayload_more {s : State} (b : Byte) (h : s.me.rxbuf.length + 1 ≠ s.me.len.toNat) :
    mePayload b s = s.withMe { s.me with rxbuf := s.me.rxbuf ++ [b] } := by
  simp [mePayload, MessageEngine.filled, h]

/-- What a received byte leaves alone, when there is a next state. -/
theorem meReceive_frame {b : Byte} {s t : State} (h : meReceive b s = .next t) :
    t.cfg = s.cfg ∧ t.fe = s.fe ∧ t.pending = s.pending ∧ t.ret = s.ret ∧ t.me.bound = s.me.bound
    ∧ ∃ new, t.trace = s.trace ++ new := by
  have hn : ∀ {x : State}, Host.Outcome.next x = (.next t : Result) → x = t := by
    intro x e
    cases e
    rfl
  rcases meReceive_cases b s with ⟨-, e⟩ | ⟨-, -, -, e⟩ | ⟨-, -, -, -, e⟩ | ⟨-, -, -, -, e⟩ | ⟨-, -, -, e⟩ | ⟨-, -, -, e⟩ <;>
    rw [e] at h
  · rw [← hn h]
    exact ⟨rfl, rfl, rfl, rfl, rfl, [], by simp⟩
  · rw [← hn h]
    exact ⟨rfl, rfl, rfl, rfl, rfl, _, rfl⟩
  · rw [← hn h]
    unfold meIdleAck
    split <;> exact ⟨rfl, rfl, rfl, rfl, rfl, _, rfl⟩
  · rw [← hn h]
    exact ⟨rfl, rfl, rfl, rfl, rfl, _, rfl⟩
  · rcases meLength_cases b s with ⟨-, k⟩ | ⟨-, -, k⟩ | ⟨-, -, -, k⟩ | ⟨-, -, -, k⟩ <;> rw [k] at h
    · rw [← hn h]
      exact ⟨rfl, rfl, rfl, rfl, rfl, [], by simp⟩
    · cases h
    · rw [← hn h]
      exact ⟨rfl, rfl, rfl, rfl, rfl, _, rfl⟩
    · rw [← hn h]
      exact ⟨rfl, rfl, rfl, rfl, rfl, [], by simp⟩
  · rw [← hn h]
    by_cases hl : s.me.rxbuf.length + 1 = s.me.len.toNat
    · rw [mePayload_last b hl]
      exact ⟨rfl, rfl, rfl, rfl, rfl, _, rfl⟩
    · rw [mePayload_more b hl]
      exact ⟨rfl, rfl, rfl, rfl, rfl, [], by simp⟩

/-- What a whole chunk leaves alone, when there is a next state. -/
theorem meReceiveAll_frame {x : Bytes} {s t : State} (h : meReceiveAll x s = .next t) :
    t.cfg = s.cfg ∧ t.fe = s.fe ∧ t.pending = s.pending ∧ t.ret = s.ret ∧ t.me.bound = s.me.bound
    ∧ ∃ new, t.trace = s.trace ++ new := by
  induction x generalizing s with
  | nil =>
    cases h
    exact ⟨rfl, rfl, rfl, rfl, rfl, [], by simp⟩
  | cons b x ih =>
    obtain ⟨u, hu, ht⟩ := andThen_eq_next.mp h
    obtain ⟨h1, h2, h3, h4, h5, n, h6⟩ := ih ht
    obtain ⟨k1, k2, k3, k4, k5, m, k6⟩ := meReceive_frame hu
    exact ⟨h1.trans k1, h2.trans k2, h3.trans k3, h4.trans k4, h5.trans k5, m ++ n, by
      rw [h6, k6, List.append_assoc]⟩

/-- Without a buffer cap a received byte always has a next state. -/
theorem meReceive_total {b : Byte} {s : State} (hc : s.cfg.meRxbufCap = none) : ∃ t, meReceive b s = .next t := by
  rcases meReceive_cases b s with ⟨-, e⟩ | ⟨-, -, -, e⟩ | ⟨-, -, -, -, e⟩ | ⟨-, -, -, -, e⟩ | ⟨-, -, -, e⟩ | ⟨-, -, -, e⟩
  all_goals first | exact ⟨_, e⟩ | skip
  rcases meLength_cases b s with ⟨-, k⟩ | ⟨-, k, -⟩ | ⟨-, -, -, k⟩ | ⟨-, -, -, k⟩
  · exact ⟨_, e.trans k⟩
  · simp [capExceeded, hc] at k
  · exact ⟨_, e.trans k⟩
  · exact ⟨_, e.trans k⟩

end Sys2Proof.Machine
end

