-- ==== Sys2Proof/Laws/PerInstr.lean ====
section
/-! SUPPORT. Facts about every operation as syntax, one lemma per constructor of `Instr`. -/

/-- The transaction of an operation is its tag, one of the 35 in use, followed by its operand bytes, in every
configuration; so no operation has an empty transaction, and the tag does not depend on the configuration. -/
def Sys2Proof.Laws.TransactionTag.Statement (i : Sys2Proof.Instr) : Prop :=
  ∀ c : Sys2Proof.Config, Sys2Proof.encode c i = i.tag :: i.operandBytes c ∧ i.tag.toNat < 35

namespace Sys2Proof.Laws.TransactionTag

theorem frameTransmission (number port : Byte) (payload : Bytes) : Statement (.frameTransmission number port payload) := fun _ => ⟨rfl, by simp [Instr.tag]⟩
theorem frameSuccess (number port : Byte) (payload : Bytes) : Statement (.frameSuccess number port payload) := fun _ => ⟨rfl, by simp [Instr.tag]⟩
theorem frameCrcFail (number port : Byte) (payload : Bytes) : Statement (.frameCrcFail number port payload) := fun _ => ⟨rfl, by simp [Instr.tag]⟩
theorem frameWrongEnd (number port : Byte) (payload : Bytes) : Statement (.frameWrongEnd number port payload) := fun _ => ⟨rfl, by simp [Instr.tag]⟩
theorem framePortNc (number port : Byte) (payload : Bytes) : Statement (.framePortNc number port payload) := fun _ => ⟨rfl, by simp [Instr.tag]⟩
theorem replySuccess (number port : Byte) : Statement (.replySuccess number port) := fun _ => ⟨rfl, by simp [Instr.tag]⟩
theorem replyCrcFail (number port : Byte) : Statement (.replyCrcFail number port) := fun _ => ⟨rfl, by simp [Instr.tag]⟩
theorem replyWrongEnd (number port : Byte) : Statement (.replyWrongEnd number port) := fun _ => ⟨rfl, by simp [Instr.tag]⟩
theorem replyPortNc (number port : Byte) : Statement (.replyPortNc number port) := fun _ => ⟨rfl, by simp [Instr.tag]⟩
theorem msgStart : Statement (.msgStart) := fun _ => ⟨rfl, by simp [Instr.tag]⟩
theorem msgAck : Statement (.msgAck) := fun _ => ⟨rfl, by simp [Instr.tag]⟩
theorem msgNack : Statement (.msgNack) := fun _ => ⟨rfl, by simp [Instr.tag]⟩
theorem msgLength (len : U64) : Statement (.msgLength len) := fun _ => ⟨rfl, by simp [Instr.tag]⟩
theorem msgPayload (bytes : Bytes) : Statement (.msgPayload bytes) := fun _ => ⟨rfl, by simp [Instr.tag]⟩
theorem feRxIdleStart (b : Byte) : Statement (.feRxIdleStart b) := fun _ => ⟨rfl, by simp [Instr.tag]⟩
theorem feRxIdleOther (b : Byte) : Statement (.feRxIdleOther b) := fun _ => ⟨rfl, by simp [Instr.tag]⟩
theorem feRxLength (b : Byte) : Statement (.feRxLength b) := fun _ => ⟨rfl, by simp [Instr.tag]⟩
theorem feRxNumber (b : Byte) : Statement (.feRxNumber b) := fun _ => ⟨rfl, by simp [Instr.tag]⟩
theorem feRxPort (b : Byte) : Statement (.feRxPort b) := fun _ => ⟨rfl, by simp [Instr.tag]⟩
theorem feRxControl (b : Byte) : Statement (.feRxControl b) := fun _ => ⟨rfl, by simp [Instr.tag]⟩
theorem feRxPayload (b : Byte) : Statement (.feRxPayload b) := fun _ => ⟨rfl, by simp [Instr.tag]⟩
theorem feRxCrc (b : Byte) : Statement (.feRxCrc b) := fun _ => ⟨rfl, by simp [Instr.tag]⟩
theorem feRxEnd (b : Byte) : Statement (.feRxEnd b) := fun _ => ⟨rfl, by simp [Instr.tag]⟩
theorem meRxIdleStart (b : Byte) : Statement (.meRxIdleStart b) := fun _ => ⟨rfl, by simp [Instr.tag]⟩
theorem meRxIdleAck (b : Byte) : Statement (.meRxIdleAck b) := fun _ => ⟨rfl, by simp [Instr.tag]⟩
theorem meRxIdleOther (b : Byte) : Statement (.meRxIdleOther b) := fun _ => ⟨rfl, by simp [Instr.tag]⟩
theorem meRxLength (b : Byte) : Statement (.meRxLength b) := fun _ => ⟨rfl, by simp [Instr.tag]⟩
theorem meRxPayload (b : Byte) : Statement (.meRxPayload b) := fun _ => ⟨rfl, by simp [Instr.tag]⟩
theorem crc16Step (c : U16) (b : Byte) : Statement (.crc16Step c b) := fun _ => ⟨rfl, by simp [Instr.tag]⟩
theorem crc16 (bytes : Bytes) : Statement (.crc16 bytes) := fun _ => ⟨rfl, by simp [Instr.tag]⟩
theorem serU16 (v : U16) : Statement (.serU16 v) := fun _ => ⟨rfl, by simp [Instr.tag]⟩
theorem serU64 (v : U64) : Statement (.serU64 v) := fun _ => ⟨rfl, by simp [Instr.tag]⟩
theorem frameEncode (number port : Byte) (control : Control) (payload : Bytes) : Statement (.frameEncode number port control payload) := fun _ => ⟨rfl, by simp [Instr.tag]⟩
theorem frameDecode (w : Bytes) : Statement (.frameDecode w) := fun _ => ⟨rfl, by simp [Instr.tag]⟩
theorem feConnect (port : Byte) (h : HandlerId) : Statement (.feConnect port h) := fun _ => ⟨rfl, by simp [Instr.tag]⟩
theorem feRxByte (b : Byte) : Statement (.feRxByte b) := fun _ => ⟨rfl, by simp [Instr.tag]⟩
theorem feRxChunk (bytes : Bytes) : Statement (.feRxChunk bytes) := fun _ => ⟨rfl, by simp [Instr.tag]⟩
theorem feSend (number port : Byte) (control : Control) (payload : Bytes) : Statement (.feSend number port control payload) := fun _ => ⟨rfl, by simp [Instr.tag]⟩
theorem meBind : Statement (.meBind) := fun _ => ⟨rfl, by simp [Instr.tag]⟩
theorem meUnbind : Statement (.meUnbind) := fun _ => ⟨rfl, by simp [Instr.tag]⟩
theorem meSend (m : Bytes) : Statement (.meSend m) := fun _ => ⟨rfl, by simp [Instr.tag]⟩
theorem meRxByte (b : Byte) : Statement (.meRxByte b) := fun _ => ⟨rfl, by simp [Instr.tag]⟩
theorem meRxChunk (bytes : Bytes) : Statement (.meRxChunk bytes) := fun _ => ⟨rfl, by simp [Instr.tag]⟩
theorem reset : Statement (.reset) := fun _ => ⟨rfl, by simp [Instr.tag]⟩

end Sys2Proof.Laws.TransactionTag
end

