-- ==== Sys2Proof/Tests/Slice0.lean ====
section
/-! SUPPORT. Tests. Expected results are the spec's own vectors (spec/95_test_vectors.md, named in each test, in its
test configuration TC1) or follow by hand from the rule named. The theorems `witness_<Statement>` show inputs that meet
the hypotheses of that statement, each clause at a boundary of its range. -/

namespace Sys2Proof.Tests

open Machine Claims

def h10 : HandlerId := { name := [0x68, 0x10] }

def h2 : HandlerId := { name := [0x68] }

/-- `FE0` and `ME0` of the vectors. -/
def s0 : State := State.initial Config.tc1

/-- `FE0` with the registry {10: h10}. -/
def s10 : State := { s0 with fe := { s0.fe with reg := [(10, h10)] } }

/-- `ME1` of the vectors. -/
def s1 : State := { s0 with me := { s0.me with bound := true } }

/-- A bound ME of the vectors' notation. -/
def meAt (ts lk : Bool) (cnt : BitVec 4) (len : U64) (rxbuf : Bytes) (txq : List Bytes) : State :=
  { s0 with me := { bound := true, ts := ts, lk := lk, cnt := cnt, len := len, rxbuf := rxbuf, txq := txq } }

/-- The FE in a state with an accumulator, and the registry {10: h10}. -/
def feAt (st : FeState) (len num port ctrl : Byte) (payload : Bytes) (crc : U16) (payRem : Byte) (crcRem : BitVec 2) :
    State :=
  { s0 with fe := { state := st, len := len, num := num, port := port, ctrl := ctrl, payload := payload, crc := crc
                    payRem := payRem, crcRem := crcRem, reg := [(10, h10)] } }

/-- The state with these effects and no other change. -/
def effects (s : State) (es : List Effect) : State := { s with trace := s.trace ++ es }

/-- The outcome is this next state. -/
def gives (r : Result) (t : State) : Bool :=
  match r with
  | .next s => decide (s = t)
  | .fault _ => false
  | .refused _ => false

/-- The outcome is this refusal. -/
def refuses (r : Result) (x : Refusal) : Bool :=
  match r with
  | .next _ => false
  | .fault _ => false
  | .refused y => decide (y = x)

theorem gives_iff (r : Result) (t : State) : gives r t = true ↔ r = .next t := by
  cases r <;> simp [gives]

theorem refuses_iff (r : Result) (x : Refusal) : refuses r x = true ↔ r = .refused x := by
  cases r <;> simp [refuses]

/-- The reply `S_x(n, p)` of the vectors in TC1. -/
def replyTx (n p code : Byte) : List Effect := [0x7E, 0x00, n, p, code, 0x00, 0x00, 0x7F].map .feTx

/-- The frame of V-FE-01 (X1), and its END accumulator. -/
def x1 : Bytes := [0x7E, 0x02, 0x00, 0x0A, 0x01, 0x12, 0xAA, 0xDF, 0x8C, 0x7F]

def x1Frame : Frame :=
  { length := 2, number := 0, port := 10, control := 0x01, payload := [0x12, 0xAA], crc := 0xDF8C }

def x1End : State := feAt .endByte 0x02 0x00 0x0A 0x01 [0x12, 0xAA] 0xDF8C 0 0

/-! Well-formedness: an ill-formed term for each check, which it refuses, and the largest that passes. -/

theorem test_wf_frame_payload_256 :
    (∀ i ∈ [Instr.frameTransmission 0 0 (List.replicate 256 0), .frameSuccess 0 0 (List.replicate 256 0),
      .frameCrcFail 0 0 (List.replicate 256 0), .frameWrongEnd 0 0 (List.replicate 256 0),
      .framePortNc 0 0 (List.replicate 256 0)], i.wellFormed = false)
    ∧ (Instr.frameTransmission 0 0 (List.replicate 255 0)).wellFormed = true := by decide +kernel

theorem test_wf_send_payload_256 :
    (Instr.frameEncode 0 0 .success (List.replicate 256 0)).wellFormed = false
    ∧ (Instr.feSend 0 0 .success (List.replicate 256 0)).wellFormed = false
    ∧ (Instr.feSend 0 0 .success (List.replicate 255 0)).wellFormed = true := by decide +kernel

theorem meSend_illFormed (m : Bytes) (h : m.length = messageBound) : (Instr.meSend m).wellFormed = false :=
  decide_eq_false (by rw [h]; exact Nat.lt_irrefl _)

theorem test_wf_message_too_long : (Instr.meSend (List.replicate messageBound 0)).wellFormed = false :=
  meSend_illFormed _ List.length_replicate

/-! Decoding: a transaction written out from the spec for every constructor (R93, R94, R80, R86, R88; the tags 16 to 34
are log entry 4), and what is refused. -/

theorem test_decode_codec :
    decode Config.tc1 [0, 0x0D, 0x80, 0xAA] = .ok (.crc16Step 0x0D80 0xAA)
    ∧ decode Config.tc1 [1, 0x31, 0x32] = .ok (.crc16 [0x31, 0x32])
    ∧ decode Config.tc1 [2, 0xDF, 0x8C] = .ok (.serU16 0xDF8C)
    ∧ decode Config.tc1 [3, 1, 2, 3, 4, 5, 6, 7, 8] = .ok (.serU64 0x0102030405060708)
    ∧ decode Config.tc1 [4, 7, 10, 1, 0xAA] = .ok (.frameEncode 7 10 .success [0xAA])
    ∧ decode Config.tc1 [5, 0x7E, 0x00] = .ok (.frameDecode [0x7E, 0x00]) := by decide

theorem test_decode_frame_engine :
    decode Config.tc1 [6, 10, 0x68] = .ok (.feConnect 10 h2)
    ∧ decode Config.tc1 [7, 0x7E] = .ok (.feRxByte 0x7E)
    ∧ decode Config.tc1 [8, 0x7E, 0x02] = .ok (.feRxChunk [0x7E, 0x02])
    ∧ decode Config.tc1 [9, 1, 20, 4] = .ok (.feSend 1 20 .portNotConnect [])
    ∧ decode Config.tc1 [16, 0x7E] = .ok (.feRxIdleStart 0x7E)
    ∧ decode Config.tc1 [17, 0x55] = .ok (.feRxIdleOther 0x55)
    ∧ decode Config.tc1 [18, 2] = .ok (.feRxLength 2)
    ∧ decode Config.tc1 [19, 3] = .ok (.feRxNumber 3)
    ∧ decode Config.tc1 [20, 4] = .ok (.feRxPort 4)
    ∧ decode Config.tc1 [21, 5] = .ok (.feRxControl 5)
    ∧ decode Config.tc1 [22, 6] = .ok (.feRxPayload 6)
    ∧ decode Config.tc1 [23, 7] = .ok (.feRxCrc 7)
    ∧ decode Config.tc1 [24, 8] = .ok (.feRxEnd 8) := by decide

theorem test_decode_message_engine :
    decode Config.tc1 [10] = .ok .meBind
    ∧ decode Config.tc1 [11] = .ok .meUnbind
    ∧ decode Config.tc1 [12, 0x41] = .ok (.meSend [0x41])
    ∧ decode Config.tc1 [13, 0xA1] = .ok (.meRxByte 0xA1)
    ∧ decode Config.tc1 [14, 0xA1, 0x00] = .ok (.meRxChunk [0xA1, 0x00])
    ∧ decode Config.tc1 [15] = .ok .reset
    ∧ decode Config.tc1 [25, 0xA1] = .ok (.meRxIdleStart 0xA1)
    ∧ decode Config.tc1 [26, 0xA2] = .ok (.meRxIdleAck 0xA2)
    ∧ decode Config.tc1 [27, 0xA3] = .ok (.meRxIdleOther 0xA3)
    ∧ decode Config.tc1 [28, 1] = .ok (.meRxLength 1)
    ∧ decode Config.tc1 [29, 2] = .ok (.meRxPayload 2) := by decide

/-- The images of V-ENC-01, V-ENC-06, V-ENC-11 to V-ENC-13, and R80 with each control code of TC1. -/
theorem test_decode_wire :
    decode Config.tc1 (30 :: x1) = .ok (.frameTransmission 0 10 [0x12, 0xAA])
    ∧ decode Config.tc1 [30, 0x7E, 0, 0, 10, 2, 0, 0, 0x7F] = .ok (.frameSuccess 0 10 [])
    ∧ decode Config.tc1 [30, 0x7E, 1, 0, 10, 3, 0, 0, 0, 0x7F] = .ok (.frameCrcFail 0 10 [0])
    ∧ decode Config.tc1 [30, 0x7E, 1, 1, 10, 4, 0x41, 0x30, 0xC0, 0x7F] = .ok (.frameWrongEnd 1 10 [0x41])
    ∧ decode Config.tc1 [30, 0x7E, 0, 0, 10, 5, 0, 0, 0x7F] = .ok (.framePortNc 0 10 [])
    ∧ decode Config.tc1 [31, 0x7E, 0, 0, 10, 2, 0, 0, 0x7F] = .ok (.replySuccess 0 10)
    ∧ decode Config.tc1 [31, 0x7E, 0, 0, 10, 3, 0, 0, 0x7F] = .ok (.replyCrcFail 0 10)
    ∧ decode Config.tc1 [31, 0x7E, 0, 0, 10, 4, 0, 0, 0x7F] = .ok (.replyWrongEnd 0 10)
    ∧ decode Config.tc1 [31, 0x7E, 0, 0, 10, 5, 0, 0, 0x7F] = .ok (.replyPortNc 0 10) := by decide +kernel

theorem test_decode_messages :
    decode Config.tc1 [32, 0xA1] = .ok .msgStart
    ∧ decode Config.tc1 [32, 0xA2] = .ok .msgAck
    ∧ decode Config.tc1 [32, 0xA3] = .ok .msgNack
    ∧ decode Config.tc1 [33, 0, 0, 0, 0, 0, 0, 1, 0] = .ok (.msgLength 256)
    ∧ decode Config.tc1 [34, 0x41, 0x42] = .ok (.msgPayload [0x41, 0x42]) := by decide

theorem test_decode_refuses_by_name :
    decode Config.tc1 [] = .error .emptyTransaction
    ∧ decode Config.tc1 [35] = .error (.unknownTag 35)
    ∧ decode Config.tc1 [10, 0] = .error (.operandCount 10)
    ∧ decode Config.tc1 [9, 0, 0, 5] = .error (.unknownControl 5)
    ∧ decode Config.tc1 [32, 0] = .error (.notAMessageByte 0)
    ∧ decode Config.tc1 [31, 0x7E, 0, 0, 10, 1, 0, 0, 0x7F] = .error .notAReply
    ∧ decode Config.tc1 [30, 0x7E, 0, 0, 10, 0x77, 0, 0, 0x7F] = .error (.unknownControl 0x77)
    ∧ decode Config.tc1 [30, 0x7E, 0, 0, 10, 1, 0, 1, 0x7F] = .error .notAFrame := by decide +kernel

theorem test_decode_refuses_payload_256 :
    decode Config.tc1 ([4, 0, 0, 0] ++ List.replicate 256 0) = .error (.payloadTooLong 256) := by decide +kernel

/-- The operand words of zeros that a table row gives no bits (an 8-bit word of number 6 takes one, one of number 2
takes two, one of tag 33 takes eight). -/
theorem test_decodeTableWord :
    decodeTableWord 8 6 = some (.feConnect 0 { name := [] })
    ∧ decodeTableWord 16 0x0A06 = some (.feConnect 10 { name := [] })
    ∧ decodeTableWord 8 2 = some (.serU16 0)
    ∧ decodeTableWord 8 33 = some (.msgLength 0)
    ∧ decodeTableWord 8 255 = none := by decide +kernel

/-- The `match_tc1` words of the table's wire rows, with no tag: REPLY.SUCCESS to REPLY.PORTNC, a FRAME.TRANSMISSION
with N = 0, MSG.START, MSG.NACK and FE_RX.IDLE_START. -/
theorem test_decodeTableWord_wire :
    decodeTableWord 64 0x7F0000020000007E = some (.replySuccess 0 0)
    ∧ decodeTableWord 64 0x7F0000050000007E = some (.replyPortNc 0 0)
    ∧ decodeTableWord 64 0x7F0000010000007E = some (.frameTransmission 0 0 [])
    ∧ decodeTableWord 8 0xA1 = some .msgStart
    ∧ decodeTableWord 8 0xA3 = some .msgNack
    ∧ decodeTableWord 8 0x7E = some (.feRxIdleStart 0x7E) := by decide +kernel

/-! The codec -/

/-- V-STEP-02, V-STEP-03, V-STEP-05, V-STEP-07. -/
theorem test_crc16_step :
    gives (exec (.crc16Step 0x0000 0x12) s0) { s0 with ret := some (.word 0x0D80) }
    ∧ gives (exec (.crc16Step 0x0D80 0xAA) s0) { s0 with ret := some (.word 0xDF8C) }
    ∧ gives (exec (.crc16Step 0xFFFF 0xFF) s0) { s0 with ret := some (.word 0x00FF) }
    ∧ gives (exec (.crc16Step 0x0001 0x00) s0) { s0 with ret := some (.word 0xC0C1) } := by decide +kernel

/-- V-CRC-01, V-CRC-02, V-CRC-20, V-CRC-28, V-CRC-29. -/
theorem test_crc16 :
    gives (exec (.crc16 [0x31, 0x32, 0x33, 0x34, 0x35, 0x36, 0x37, 0x38, 0x39]) s0)
      { s0 with ret := some (.word 0xBB3D) }
    ∧ gives (exec (.crc16 []) s0) { s0 with ret := some (.word 0x0000) }
    ∧ gives (exec (.crc16 [0x41, 0x4C, 0x41, 0x20, 0x4D, 0x41, 0x20, 0x4B, 0x4F, 0x54, 0x54, 0x41]) s0)
      { s0 with ret := some (.word 0x8AC2) }
    ∧ gives (exec (.crc16 [0x12, 0xAA, 0x8C, 0xDF]) s0) { s0 with ret := some (.word 0x0000) }
    ∧ gives (exec (.crc16 [0x12, 0xAA, 0xDF, 0x8C]) s0) { s0 with ret := some (.word 0xCD7C) } := by decide +kernel

/-- V-CRC-21: the longest payload, 00 to FE, in five pieces (R115 (a)); the values
between are computed from R112 outside the model. -/
theorem test_crc16_longest :
    crcFold 0x0000 ((List.range' 0 51).map (BitVec.ofNat 8)) = 0xFF90
    ∧ crcFold 0xFF90 ((List.range' 51 51).map (BitVec.ofNat 8)) = 0x13E4
    ∧ crcFold 0x13E4 ((List.range' 102 51).map (BitVec.ofNat 8)) = 0xC1D8
    ∧ crcFold 0xC1D8 ((List.range' 153 51).map (BitVec.ofNat 8)) = 0x96C9
    ∧ crcFold 0x96C9 ((List.range' 204 51).map (BitVec.ofNat 8)) = 0x9258 := by decide +kernel

/-- V-SER-02, V-SER-03, V-SER-04, V-SER-09, V-SER-10. -/
theorem test_serializers :
    gives (exec (.serU16 0xDF8C) s0) { s0 with ret := some (.bytes [0xDF, 0x8C]) }
    ∧ gives (exec (.serU16 0x00FF) s0) { s0 with ret := some (.bytes [0x00, 0xFF]) }
    ∧ gives (exec (.serU16 0xFF00) s0) { s0 with ret := some (.bytes [0xFF, 0x00]) }
    ∧ gives (exec (.serU64 0x0102030405060708) s0) { s0 with ret := some (.bytes [1, 2, 3, 4, 5, 6, 7, 8]) }
    ∧ gives (exec (.serU64 0xFFFFFFFFFFFFFFFF) s0)
      { s0 with ret := some (.bytes [0xFF, 0xFF, 0xFF, 0xFF, 0xFF, 0xFF, 0xFF, 0xFF]) } := by decide +kernel

/-- V-SER-11, V-SER-12. -/
theorem test_deserializers :
    deserializeU16 0xDF 0x8C = 0xDF8C ∧ deserializeU64 [0, 0, 0, 0, 0, 0, 0, 0xA2] = 162 := by decide

/-- V-ENC-01, V-ENC-03, V-ENC-07, V-ENC-08. -/
theorem test_frame_encode :
    gives (exec (.frameEncode 0 10 .transmission [0x12, 0xAA]) s0) { s0 with ret := some (.bytes x1) }
    ∧ gives (exec (.frameEncode 1 10 .transmission [0x7E, 0x7F]) s0)
      { s0 with ret := some (.bytes [0x7E, 0x02, 0x01, 0x0A, 0x01, 0x7E, 0x7F, 0x40, 0x60, 0x7F]) }
    ∧ gives (exec (.frameEncode 5 200 .transmission [0x41, 0x42, 0x43, 0x44]) s0)
      { s0 with ret := some (.bytes [0x7E, 0x04, 0x05, 0xC8, 0x01, 0x41, 0x42, 0x43, 0x44, 0x2B, 0x85, 0x7F]) }
    ∧ gives (exec (.frameEncode 0 0 .transmission [0x00]) s0)
      { s0 with ret := some (.bytes [0x7E, 0x01, 0x00, 0x00, 0x01, 0x00, 0x00, 0x00, 0x7F]) } := by decide +kernel

/-- V-DEC-01, V-DEC-02, V-DEC-03, V-DEC-08. -/
theorem test_frame_decode :
    frameOfImage Config.tc1 x1 = .decoded x1Frame true true
    ∧ frameOfImage Config.tc1 [0x7E, 2, 0, 10, 1, 0x12, 0xAA, 0xDF, 0x8C, 0] = .decoded x1Frame true false
    ∧ frameOfImage Config.tc1 [0x7E, 2, 0, 10, 1, 0x13, 0xAA, 0xDF, 0x8C, 0x7F]
      = .decoded { x1Frame with payload := [0x13, 0xAA] } false true
    ∧ frameOfImage Config.tc1 [0x7E, 0, 7, 10, 1, 0, 0, 0x7F]
      = .decoded { length := 0, number := 7, port := 10, control := 1, payload := [], crc := 0 } true true := by
  decide +kernel

/-- V-DEC-04 to V-DEC-07, V-DEC-09. -/
theorem test_frame_decode_malformed :
    frameOfImage Config.tc1 [0x7E, 2, 0, 10, 1, 0x12, 0xAA, 0xDF, 0x8C] = .malformed
    ∧ frameOfImage Config.tc1 [0x00, 2, 0, 10, 1, 0x12, 0xAA, 0xDF, 0x8C, 0x7F] = .malformed
    ∧ frameOfImage Config.tc1 (x1 ++ [0x00]) = .malformed
    ∧ frameOfImage Config.tc1 [0x7E, 0, 0, 0, 0, 0, 0] = .malformed
    ∧ frameOfImage Config.tc1 [0x7E, 3, 0, 10, 1, 0x12, 0xAA, 0xDF, 0x8C, 0x7F] = .malformed := by decide +kernel

/-! The Frame Engine -/

/-- V-FE-18: first wins, even for the same handler. -/
theorem test_fe_connect :
    gives (exec (.feConnect 10 h10) s0) s10
    ∧ gives (exec (.feConnect 10 h2) s10) (effects s10 [.feDiag .feDupConnect])
    ∧ gives (exec (.feConnect 10 h10) s10) (effects s10 [.feDiag .feDupConnect]) := by decide

/-- R26: registrations in either order are the same registry. -/
theorem test_fe_registry_unordered :
    Registry.fill (Registry.fill [] 200 h2) 10 h10 = Registry.fill (Registry.fill [] 10 h10) 200 h2 := by decide

/-- V-FE-25, V-FE-26. -/
theorem test_fe_send :
    gives (exec (.feSend 0 10 .transmission [0x12, 0xAA]) s0) (effects s0 (x1.map .feTx))
    ∧ gives (exec (.feSend 7 10 .success []) s0) (effects s0 (replyTx 7 10 0x02)) := by decide +kernel

/-- Trace T1: the rows of IDLE to CONTROL. -/
theorem test_fe_rx_header :
    gives (exec (.feRxIdleOther 0x55) s10) s10
    ∧ gives (exec (.feRxIdleStart 0x7E) s10) (feAt .length 0 0 0 0 [] 0 0 2)
    ∧ gives (exec (.feRxLength 0x02) (feAt .length 0 0 0 0 [] 0 0 2)) (feAt .number 2 0 0 0 [] 0 2 2)
    ∧ gives (exec (.feRxNumber 0x07) (feAt .number 2 0 0 0 [] 0 2 2)) (feAt .port 2 7 0 0 [] 0 2 2)
    ∧ gives (exec (.feRxPort 0x0A) (feAt .port 2 7 0 0 [] 0 2 2)) (feAt .control 2 7 10 0 [] 0 2 2)
    ∧ gives (exec (.feRxControl 0x01) (feAt .control 2 7 10 0 [] 0 2 2)) (feAt .payload 2 7 10 1 [] 0 2 2)
    ∧ gives (exec (.feRxControl 0x01) (feAt .control 0 7 10 0 [] 0 0 2)) (feAt .crc 0 7 10 1 [] 0 0 2) := by decide

/-- Trace T1: the rows of PAYLOAD and CRC. -/
theorem test_fe_rx_body :
    gives (exec (.feRxPayload 0x12) (feAt .payload 2 0 10 1 [] 0 2 2)) (feAt .payload 2 0 10 1 [0x12] 0 1 2)
    ∧ gives (exec (.feRxPayload 0xAA) (feAt .payload 2 0 10 1 [0x12] 0 1 2)) (feAt .crc 2 0 10 1 [0x12, 0xAA] 0 0 2)
    ∧ gives (exec (.feRxCrc 0xDF) (feAt .crc 2 0 10 1 [0x12, 0xAA] 0 0 2)) (feAt .crc 2 0 10 1 [0x12, 0xAA] 0x00DF 0 1)
    ∧ gives (exec (.feRxCrc 0x8C) (feAt .crc 2 0 10 1 [0x12, 0xAA] 0x00DF 0 1)) x1End := by decide

/-- Trace T1's last row, V-FE-06, V-FE-07 (IDLE, not LENGTH), V-FE-03 (the port is tested first). -/
theorem test_fe_rx_end :
    gives (exec (.feRxEnd 0x7F) x1End) (effects s10 (replyTx 0 10 0x02 ++ [.feDeliver h10 x1Frame]))
    ∧ gives (exec (.feRxEnd 0x00) x1End) (effects s10 (replyTx 0 10 0x04))
    ∧ gives (exec (.feRxEnd 0x7E) x1End) (effects s10 (replyTx 0 10 0x04))
    ∧ gives (exec (.feRxEnd 0x00) (feAt .endByte 2 0 11 1 [0x12, 0xAA] 0 0 0)) (effects s10 (replyTx 0 11 0x05)) := by
  decide +kernel

/-- V-FE-05 (the CRC is tested before the END byte), V-FE-20, V-FE-21 (rejects ignore `fe_ctrl`), V-FE-10 (absorbed). -/
theorem test_fe_rx_end_rejects :
    gives (exec (.feRxEnd 0x00) (feAt .endByte 2 0 10 1 [0x12, 0xAA] 0 0 0)) (effects s10 (replyTx 0 10 0x03))
    ∧ gives (exec (.feRxEnd 0x7F) (feAt .endByte 2 0 10 1 [0x12, 0xAA] 0x8CDF 0 0)) (effects s10 (replyTx 0 10 0x03))
    ∧ gives (exec (.feRxEnd 0x7F) (feAt .endByte 0 0 10 2 [] 0x0001 0 0)) (effects s10 (replyTx 0 10 0x03))
    ∧ gives (exec (.feRxEnd 0x7F) (feAt .endByte 2 0 10 0x77 [1, 2] 0x5180 0 0)) s10 := by decide +kernel

/-- V-FE-01, V-FE-14 (a false start loses the frame), V-FE-22 (parked). -/
theorem test_fe_rx_chunk :
    gives (exec (.feRxChunk x1) s10) (effects s10 (replyTx 0 10 0x02 ++ [.feDeliver h10 x1Frame]))
    ∧ gives (exec (.feRxChunk ([0x7E, 0x01] ++ x1)) s10) (effects s10 (replyTx 0x7E 0x02 0x05))
    ∧ gives (exec (.feRxChunk [0x7E, 0x02, 0x00]) s10) (feAt .port 2 0 0 0 [] 0 2 2) := by decide +kernel

/-- V-FE-13: two frames and a stray byte in one chunk. -/
theorem test_fe_rx_chunk_two_frames :
    gives (exec (.feRxChunk [0x7E, 1, 1, 10, 1, 0x41, 0x30, 0xC0, 0x7F, 0x7E, 1, 2, 11, 1, 0x42, 0x31, 0x80, 0x7F, 0]) s10)
      
      (effects s10 (replyTx 1 10 0x02
        ++ [.feDeliver h10 { length := 1, number := 1, port := 10, control := 1, payload := [0x41], crc := 0x30C0 }]
        ++ replyTx 2 11 0x05)) := by decide +kernel

/-- R90: a sub-operation that the state does not select is the byte that the state's own row takes. -/
theorem test_fe_state_selects_the_row :
    gives (exec (.feRxIdleOther 0x7E) s10) (feAt .length 0 0 0 0 [] 0 0 2)
    ∧ gives (exec (.feRxByte 0x7E) (feAt .number 2 0 0 0 [] 0 2 2)) (feAt .port 2 0x7E 0 0 [] 0 2 2) := by decide

/-! The wire encodings -/

/-- V-FE-01, V-FE-02, V-FE-09, V-FE-11, and R162 for the other codes. -/
theorem test_frame_rows :
    gives (exec (.frameTransmission 0 10 [0x12, 0xAA]) s10)
      (effects s10 (replyTx 0 10 0x02 ++ [.feDeliver h10 x1Frame]))
    ∧ gives (exec (.frameTransmission 0 10 [0x12, 0xAA]) s0) (effects s0 (replyTx 0 10 0x05))
    ∧ gives (exec (.frameSuccess 0 10 []) s10) s10
    ∧ gives (exec (.frameSuccess 3 11 []) s10) (effects s10 (replyTx 3 11 0x05))
    ∧ gives (exec (.frameCrcFail 0 10 []) s10) s10
    ∧ gives (exec (.frameWrongEnd 0 10 [1, 2]) s10) s10
    ∧ gives (exec (.framePortNc 0 11 []) s10) (effects s10 (replyTx 0 11 0x05)) := by decide +kernel

/-- V-ENC-06, V-ENC-11, V-ENC-12, V-ENC-13. -/
theorem test_reply_rows :
    gives (exec (.replySuccess 0 10) s0) (effects s0 (replyTx 0 10 0x02))
    ∧ gives (exec (.replyCrcFail 0 10) s0) (effects s0 (replyTx 0 10 0x03))
    ∧ gives (exec (.replyWrongEnd 0 10) s0) (effects s0 (replyTx 0 10 0x04))
    ∧ gives (exec (.replyPortNc 0 10) s0) (effects s0 (replyTx 0 10 0x05)) := by decide +kernel

/-- V-ME-12, V-ME-10, V-ME-06, V-ME-16, V-ME-20 (its last byte). -/
theorem test_msg_rows :
    gives (exec .msgStart s1) (effects (meAt true false 0 0 [] []) [.meTx 0xA2])
    ∧ gives (exec .msgAck (meAt false false 0 0 [] [[0x41, 0x42, 0x43, 0x44]]))
      (effects s1 ([0, 0, 0, 0, 0, 0, 0, 4, 0x41, 0x42, 0x43, 0x44].map .meTx))
    ∧ gives (exec .msgNack s1) (effects s1 [.meTx 0xA3])
    ∧ gives (exec (.msgLength 0) (meAt true false 0 0 [] [])) (effects s1 [.meDeliver []])
    ∧ gives (exec (.msgPayload [0x44]) (meAt true true 8 4 [0x41, 0x42, 0x43] []))
      (effects s1 [.meDeliver [0x41, 0x42, 0x43, 0x44]]) := by decide +kernel

/-! The Message Engine -/

/-- V-ME-03, V-ME-19. -/
theorem test_me_bind :
    gives (exec .meBind s0) s1
    ∧ gives (exec .meBind s1) s1
    ∧ gives (exec .meUnbind (meAt true true 8 5 [1, 2, 3] [])) s0 := by decide

/-- V-ME-01, V-ME-07, V-ME-08, V-ME-13. -/
theorem test_me_send :
    gives (exec (.meSend [0x78]) s0) (effects s0 [.meDiag .meSendUnbound])
    ∧ gives (exec (.meSend [0x41, 0x42, 0x43, 0x44]) s1)
      (effects (meAt false false 0 0 [] [[0x41, 0x42, 0x43, 0x44]]) [.meTx 0xA1])
    ∧ gives (exec (.meSend [0x78]) (meAt false false 0 0 [] [[0x41]]))
      (effects (meAt false false 0 0 [] [[0x41]]) [.meDiag .meSendBusy])
    ∧ gives (exec (.meSend [0x7A]) (meAt true false 0 0 [] []))
      (effects (meAt true false 0 0 [] []) [.meDiag .meSendBusy]) := by decide +kernel

/-- V-ME-12, V-ME-05, V-ME-10, V-ME-04, V-ME-09. -/
theorem test_me_rx_idle :
    gives (exec (.meRxIdleStart 0xA1) s1) (effects (meAt true false 0 0 [] []) [.meTx 0xA2])
    ∧ gives (exec (.meRxIdleAck 0xA2) s1) (effects s1 [.meDiag .meSpuriousAck])
    ∧ gives (exec (.meRxIdleAck 0xA2) (meAt false false 0 0 [] [[0x41]]))
      (effects s1 ([0, 0, 0, 0, 0, 0, 0, 1, 0x41].map .meTx))
    ∧ gives (exec (.meRxIdleOther 0x00) s1) (effects s1 [.meTx 0xA3])
    ∧ gives (exec (.meRxIdleOther 0xA3) (meAt false false 0 0 [] [[0x41]]))
      (effects (meAt false false 0 0 [] [[0x41]]) [.meTx 0xA3]) := by decide

/-- V-ME-15 from the end of V-ME-14, V-ME-21. -/
theorem test_me_rx_length :
    gives (exec (.meRxLength 0x08) (meAt true false 7 0x01020304050607 [] []))
      (meAt true true 8 0x0102030405060708 [] [])
    ∧ gives (exec (.meRxLength 0xA2) (meAt true false 0 0 [] [[0x41, 0x42]]))
      (meAt true false 1 0xA2 [] [[0x41, 0x42]]) := by decide

/-- V-ME-20, and a byte that does not fill the length. -/
theorem test_me_rx_payload :
    gives (exec (.meRxPayload 0x44) (meAt true true 8 4 [0x41, 0x42, 0x43] []))
      (effects s1 [.meDeliver [0x41, 0x42, 0x43, 0x44]])
    ∧ gives (exec (.meRxPayload 0xA1) (meAt true true 8 4 [0x41] [])) (meAt true true 8 4 [0x41, 0xA1] []) := by decide

/-- V-ME-02 and V-ME-18: a chunk on an unbound engine, and the last byte of a chunk as a new Start. -/
theorem test_me_rx_chunk :
    gives (exec (.meRxChunk [0xA1, 0x00]) s0) s0
    ∧ gives (exec (.meRxChunk [0xA1, 0, 0, 0, 0, 0, 0, 0, 2, 0xA1, 0xA2, 0xA1]) s1)
      (effects (meAt true false 0 0 [] []) [.meTx 0xA2, .meDeliver [0xA1, 0xA2], .meTx 0xA2]) := by decide +kernel

/-- R90 for the Message Engine, and `ME_RX_BYTE` in phase IDLE (V-ME-04). -/
theorem test_me_phase_selects_the_row :
    gives (exec (.meRxPayload 0xA1) s1) (effects (meAt true false 0 0 [] []) [.meTx 0xA2])
    ∧ gives (exec (.meRxByte 0x00) s1) (effects s1 [.meTx 0xA3]) := by decide

/-- Decision D18: with a cap of 3, a declared length of 4 has no successor and one of 3 has. -/
theorem test_me_rxbuf_cap :
    refuses (exec (.msgLength 4) { meAt true false 0 0 [] [] with cfg := { Config.tc1 with meRxbufCap := some 3 } })
      (.rxbufCapExceeded 4)
    ∧ gives (exec (.msgLength 3) { meAt true false 0 0 [] [] with cfg := { Config.tc1 with meRxbufCap := some 3 } })
      { meAt true true 8 3 [] [] with cfg := { Config.tc1 with meRxbufCap := some 3 } } := by decide +kernel

/-! The block -/

/-- R44, R260. -/
theorem test_reset :
    gives (exec .reset x1End) s0
    ∧ gives (exec .reset (meAt true true 8 5 [1, 2, 3] [[1]])) s0
    ∧ State.reset.quiescent = true := by decide

/-- R66, R237: the next transaction, none, and one that is no operation. -/
theorem test_step :
    gives (step { s10 with pending := [[7, 0x7E], [15]] }) { feAt .length 0 0 0 0 [] 0 0 2 with pending := [[15]] }
    ∧ gives (step s10) s10
    ∧ refuses (step { s10 with pending := [[35]] }) (.notAnOperation (.unknownTag 35)) := by decide

/-- An instruction word after reset: `FE_CONNECT`, `ME_BIND`, a received X1 frame with its bytes in order. -/
theorem test_withFetchWord :
    gives (step (State.reset.withFetchWord 16 0x0A06))
      { State.reset with fe := { State.reset.fe with reg := [(10, { name := [] })] } }
    ∧ gives (step (State.reset.withFetchWord 8 10)) s1
    ∧ (State.reset.withFetchWord 88 0x7F8CDFAA12010A00027E1E).pending = [30 :: x1] := by decide +kernel

/-! Witnesses: inputs that meet the hypotheses of each statement that has any. -/

/-- The invariant from its parts. -/
theorem inv_of_parts {s : State} (a : s.fe.StateInvariant) (b : s.fe.CrcFresh) (c : s.fe.reg.Canonical)
    (d : s.me.Inv s.cfg) : s.Inv := ⟨⟨a, b, c⟩, d⟩

/-- The longest payload. -/
def longest : Bytes := List.replicate 255 0

theorem witness_StepRunsTheDecodedOperation :
    { s0 with pending := [[15], [10]] }.pending = [15] :: [[10]] ∧ decode s0.cfg [15] = .ok .reset
    ∧ s0.pending = [] ∧ decode s0.cfg [] = .error .emptyTransaction := by decide

theorem witness_StepRunsTheDecodedOperation_word :
    decode s0.cfg (transactionOfWord s0.cfg 8 15) = .ok .reset
    ∧ decode s0.cfg (transactionOfWord s0.cfg 8 6) = .ok (.feConnect 0 { name := [] })
    ∧ decode s0.cfg (transactionOfWord s0.cfg 88 0x7F8CDFAA12010A00027E1E) = .ok (.frameTransmission 0 10 [0x12, 0xAA]) := by
  decide +kernel

theorem witness_DecodeOfEncodeGivesTheOperation :
    Config.tc1.Legal ∧ (Instr.frameTransmission 255 255 longest).wellFormed = true
    ∧ (Instr.meSend [0x41]).wellFormed = true := by decide +kernel

theorem witness_EncodeOfDecodeGivesTheTransaction :
    decode Config.tc1 (30 :: x1) = .ok (.frameTransmission 0 10 [0x12, 0xAA])
    ∧ decode Config.tc1 [6, 255] = .ok (.feConnect 255 { name := [] }) := by decide +kernel

theorem witness_DecodedOperationsAreWellFormed :
    decode Config.tc1 ([9, 0, 0, 0] ++ longest) = .ok (.feSend 0 0 .transmission longest) := by decide +kernel

theorem witness_CrcLawsOfR115 : ([0x12, 0xAA] : Bytes).length = ([0x01, 0x01] : Bytes).length := by decide

theorem witness_CrcDetectsAnySingleByteChange :
    ([0x12, 0xAA] : Bytes)[1]? = some 0xAA ∧ (0xAB : Byte) ≠ 0xAA := by decide

theorem witness_SerU64IsMostSignificantByteFirst : ([0, 0, 0, 0, 0, 0, 0, 0xA2] : Bytes).length = 8 := by decide

theorem witness_SerializersRoundTrip :
    ([0xFF, 0xFF, 0xFF, 0xFF, 0xFF, 0xFF, 0xFF, 0xFF] : Bytes).length = 8 := by decide

theorem witness_FrameEncodeReturnsTheWireImage :
    (Control.portNotConnect, s0.cfg.ctrlPortNotConnect) ∈ controlCodes s0.cfg ∧ longest.length ≤ 255 := by
  decide +kernel

theorem witness_FrameDecodeSplitsTheImage :
    longest.length = (255 : Byte).toNat ∧ ([] : Bytes).length = (0 : Byte).toNat
    ∧ ([0x7E, 0, 0, 0, 0, 0, 0] : Bytes).length < 8
    ∧ ([0x00, 0, 0, 0, 0, 0, 0, 0x7F] : Bytes)[0]? ≠ some s0.cfg.frameStart
    ∧ (∀ n : Byte, (x1 ++ [0])[1]? = some n → (x1 ++ [0]).length ≠ 8 + n.toNat) := by
  refine ⟨by decide +kernel, by decide, by decide, by decide, ?_⟩
  intro n h
  simp only [x1, List.cons_append, List.nil_append, List.getElem?_cons_succ, List.getElem?_cons_zero] at h
  cases h
  decide

theorem witness_FrameDecodeInvertsFrameEncode :
    (Control.transmission, Config.tc1.ctrlTransmission) ∈ controlCodes Config.tc1 ∧ longest.length ≤ 255 := by
  decide +kernel

theorem witness_ConnectIsFirstWins :
    s0.fe.reg.slot 255 = none ∧ s10.fe.reg.slot 10 = some h10 ∧ (11 : Byte) ≠ 10 := by decide

theorem witness_SendTransmitsTheWireImage :
    (Control.wrongEndByte, s0.cfg.ctrlWrongEnd) ∈ controlCodes s0.cfg ∧ longest.length ≤ 255 := by decide +kernel

theorem witness_IdleRowsTestTheStartMarker :
    s10.fe.state = .idle ∧ (0x7E : Byte) = s10.cfg.frameStart ∧ (0x7F : Byte) ≠ s10.cfg.frameStart := by decide

theorem witness_HeaderRowsStoreTheirByte :
    (feAt .number 2 0 0 0 [] 0 2 2).fe.state = .number
    ∧ (feAt .port 2 0 0 0 [] 0 2 2).fe.state = .port ∧ (feAt .control 0 0 10 0 [] 0 0 2).fe.state = .control
    ∧ (feAt .control 0 0 10 0 [] 0 0 2).fe.len = 0 ∧ (feAt .control 1 0 10 0 [] 0 1 2).fe.state = .control
    ∧ (feAt .control 1 0 10 0 [] 0 1 2).fe.len ≠ 0 := by decide

theorem witness_LengthAndPayloadRowsCount :
    (feAt .length 0 0 0 0 [] 0 0 2).fe.state = .length
    ∧ (feAt .payload 1 0 10 1 [] 0 1 2).fe.state = .payload ∧ (feAt .payload 1 0 10 1 [] 0 1 2).fe.payRem = 1
    ∧ 1 < (feAt .payload 2 0 10 1 [] 0 2 2).fe.payRem.toNat
    ∧ 1 < (feAt .payload 255 0 10 1 [] 0 255 2).fe.payRem.toNat := by decide

theorem witness_CrcRowShiftsInItsByte :
    (feAt .crc 0 0 10 1 [] 0 0 2).fe.state = .crc ∧ (feAt .crc 0 0 10 1 [] 0 0 2).fe.crcRem = 2
    ∧ (feAt .crc 0 0 10 1 [] 0xFF 0 1).fe.crcRem = 1 := by decide

theorem witness_EndPolicyIsFirstMatchWins :
    x1End.fe.state = .endByte ∧ (feAt .endByte 2 0 11 1 [0x12, 0xAA] 0xDF8C 0 0).fe.reg.slot 11 = none
    ∧ x1End.fe.reg.slot x1End.fe.port = some h10 ∧ crcOf x1End.fe.payload = x1End.fe.crc
    ∧ crcOf [0x13, 0xAA] ≠ x1End.fe.crc ∧ (0x7E : Byte) ≠ x1End.cfg.frameEnd ∧ (0x7F : Byte) = x1End.cfg.frameEnd
    ∧ x1End.fe.ctrl = x1End.cfg.ctrlTransmission ∧ (0x77 : Byte) ≠ x1End.cfg.ctrlTransmission := by decide +kernel

theorem witness_ChunkIsItsBytesInOrder :
    gives (exec (.feRxByte 0x7E) s10) (feAt .length 0 0 0 0 [] 0 0 2)
    ∧ gives (exec (.meRxByte 0xA1) s1) (effects (meAt true false 0 0 [] []) [.meTx 0xA2]) := by decide

theorem witness_ChunkBoundariesAreNotObservable :
    gives (exec (.feRxChunk [0x7E, 0x02, 0x00]) s10) (feAt .port 2 0 0 0 [] 0 2 2)
    ∧ gives (exec (.meRxChunk [0xA1]) s1) (effects (meAt true false 0 0 [] []) [.meTx 0xA2]) := by decide

theorem witness_FrameRowsAreReceivedImages : longest.length ≤ 255 := by decide +kernel

theorem witness_TransmissionFrameIsDeliveredOrRefused :
    s10.fe.state = .idle ∧ longest.length ≤ 255 ∧ s10.fe.reg.slot 10 = some h10 ∧ s10.fe.reg.slot 11 = none := by decide +kernel

theorem witness_OtherFramesAreAbsorbedOrRefused :
    s10.fe.state = .idle ∧ longest.length ≤ 255 ∧ s10.cfg.Legal ∧ s10.fe.reg.slot 10 ≠ none
    ∧ s10.fe.reg.slot 11 = none := by decide +kernel

theorem witness_FrameEngineAgreesWithFrameDecode :
    s10.fe.state = .idle
    ∧ gives (exec (.frameDecode x1) s10) { s10 with ret := some (.frame (.decoded x1Frame true true)) } := by
  decide +kernel

theorem witness_SingleByteCorruptionIsRejected :
    s10.fe.state = .idle ∧ s10.fe.reg.slot 10 = some h10 ∧ ([0x12, 0xAA] : Bytes).length ≤ 255
    ∧ ([0x12, 0xAA] : Bytes)[0]? = some 0x12 ∧ (0x13 : Byte) ≠ 0x12 := by decide

theorem witness_WrongEndByteIsRejected :
    s10.fe.state = .idle ∧ s10.fe.reg.slot 10 = some h10 ∧ longest.length ≤ 255
    ∧ (0x7E : Byte) ≠ s10.cfg.frameEnd := by decide +kernel

theorem witness_StartMarkerCommitsToOneFrame :
    s10.fe.state = .idle ∧ (List.replicate 6 0 : Bytes).length = 6 + (0 : Byte).toNat
    ∧ (List.replicate 261 0 : Bytes).length = 6 + (255 : Byte).toNat ∧ 6 < 7 + (0 : Byte).toNat := by decide +kernel

theorem witness_FrameEngineReturnsToIdle :
    (feAt .length 0 0 0 0 [] 0 0 2).Inv ∧ 262 ≤ (List.replicate 262 0 : Bytes).length :=
  ⟨inv_of_parts (by decide +kernel) (by decide) (by decide) (by decide +kernel),
    by decide +kernel⟩

theorem witness_OnlyValidFramesAreDelivered :
    x1End.Inv ∧ gives (exec (.feRxByte 0x7F) x1End) (effects s10 (replyTx 0 10 0x02 ++ [.feDeliver h10 x1Frame])) :=
  ⟨inv_of_parts (by decide +kernel) (by decide) (by decide) (by decide +kernel),
    by decide +kernel⟩

theorem witness_RegistrationLastsUntilReset :
    Instr.feConnect 10 h2 ≠ .reset ∧ gives (exec (.feConnect 10 h2) s10) (effects s10 [.feDiag .feDupConnect])
    ∧ s10.fe.reg.slot 10 = some h10 := by decide

theorem witness_LateRegistrationReceivesTheFrame :
    let s := { x1End with fe := { x1End.fe with reg := [] } }
    s.fe.state = .endByte ∧ s.fe.reg.slot s.fe.port = none ∧ crcOf s.fe.payload = s.fe.crc
    ∧ s.fe.ctrl = s.cfg.ctrlTransmission := by decide +kernel

theorem witness_SendIsGuardedByTheHandshake :
    ([] : Bytes).length < 2 ^ 64 ∧ s0.me.bound = false ∧ s1.me.bound = true
    ∧ (meAt true false 0 0 [] []).me.ts = true ∧ (meAt false false 0 0 [] [[0x41]]).me.txq ≠ []
    ∧ s1.me.ts = false ∧ s1.me.txq = [] := by decide

theorem witness_UnboundEngineIgnoresBytes : s0.me.bound = false := by decide

theorem witness_StartByteIsAcknowledged :
    (meAt false false 0 0 [] [[0x41]]).me.bound = true ∧ (meAt false false 0 0 [] [[0x41]]).me.ts = false := by decide

theorem witness_AckByteReleasesTheMessage :
    s1.me.bound = true ∧ s1.me.ts = false ∧ s1.cfg.meAck ≠ s1.cfg.meStart ∧ s1.me.txq = []
    ∧ (meAt false false 0 0 [] [[]]).me.txq = [] :: [] := by decide

theorem witness_OtherIdleBytesAreNacked :
    s1.me.bound = true ∧ s1.me.ts = false ∧ (0xA3 : Byte) ≠ s1.cfg.meStart ∧ (0xA3 : Byte) ≠ s1.cfg.meAck
    ∧ s1.cfg.Legal := by decide

theorem witness_LengthRowAccumulatesEightBytes :
    (meAt true false 6 0 [] []).me.bound = true ∧ (meAt true false 6 0 [] []).me.ts = true
    ∧ (meAt true false 6 0 [] []).me.lk = false ∧ (meAt true false 6 0 [] []).me.cnt.toNat < 7
    ∧ (meAt true false 7 0 [] []).me.cnt = 7
    ∧ (4 : U64).toNat = (meAt true false 7 0 [] []).me.len.toNat % 2 ^ 56 * 256 + (4 : Byte).toNat ∧ (4 : U64) ≠ 0
    ∧ (0 : U64).toNat = (meAt true false 7 0 [] []).me.len.toNat % 2 ^ 56 * 256 + (0 : Byte).toNat := by decide

/-- The cap clauses: no cap, a cap just reached, and one just exceeded. -/
theorem witness_LengthRowAccumulatesEightBytes_cap :
    (∀ cap : Nat, s1.cfg.meRxbufCap = some cap → (4 : U64).toNat ≤ cap)
    ∧ (∀ cap : Nat, { Config.tc1 with meRxbufCap := some 4 }.meRxbufCap = some cap → (4 : U64).toNat ≤ cap)
    ∧ ∃ cap : Nat, { Config.tc1 with meRxbufCap := some 3 }.meRxbufCap = some cap ∧ cap < (4 : U64).toNat := by
  refine ⟨fun cap h => ?_, fun cap h => ?_, 3, rfl, by decide⟩
  · cases h
  · cases h
    decide

theorem witness_PayloadRowFillsAndDelivers :
    let s := meAt true true 8 4 [0x41, 0x42, 0x43] []
    s.me.bound = true ∧ s.me.ts = true ∧ s.me.lk = true ∧ s.me.rxbuf.length + 1 = s.me.len.toNat
    ∧ (meAt true true 8 5 [0x41, 0x42, 0x43] []).me.rxbuf.length + 1 ≠ 5 := by decide

theorem witness_LengthFieldIsReceivedWhole :
    let s := meAt true false 0 0 [] []
    s.me.bound = true ∧ s.me.ts = true ∧ s.me.lk = false ∧ s.me.cnt = 0 ∧ s.me.len = 0
    ∧ (∀ cap : Nat, s.cfg.meRxbufCap = some cap → (1 : U64).toNat ≤ cap) ∧ (1 : U64) ≠ 0 := by
  refine ⟨rfl, rfl, rfl, rfl, rfl, fun cap h => ?_, by decide⟩
  cases h

theorem witness_PayloadFieldIsDeliveredWhole :
    let s := meAt true true 8 4 [0x41] []
    s.me.bound = true ∧ s.me.ts = true ∧ s.me.lk = true ∧ s.me.rxbuf.length < s.me.len.toNat
    ∧ s.me.rxbuf.length + ([0x42, 0x43, 0x44] : Bytes).length = s.me.len.toNat
    ∧ s.me.rxbuf.length + ([0x42, 0x43] : Bytes).length < s.me.len.toNat := by decide

theorem witness_MessageTransferDeliversTheMessage :
    s1.cfg = s1.cfg ∧ s1.cfg.Legal ∧ s1.cfg.meRxbufCap = none ∧ ([] : Bytes).length < 2 ^ 64
    ∧ ([0x41] : Bytes).length < 2 ^ 64 ∧ s1.me = meResting [] := by decide

theorem witness_StartCollisionParksTheEngine :
    (meAt false false 0 0 [] [[0x41, 0x42]]).me = meResting [[0x41, 0x42]] ∧ ([0x78] : Bytes).length < 2 ^ 64 := by decide

theorem witness_EveryStepKeepsTheInvariant :
    State.Inv { x1End with pending := [[7, 0x7F]] }
    ∧ gives (step { x1End with pending := [[7, 0x7F]] })
      (effects s10 (replyTx 0 10 0x02 ++ [.feDeliver h10 x1Frame])) :=
  ⟨inv_of_parts (by decide +kernel) (by decide) (by decide) (by decide +kernel),
    by decide +kernel⟩

/-- The invariant in the states of the ME that a run reaches. -/
theorem witness_invariant_message_engine :
    (meAt true false 7 0x01020304050607 [] [[0x41]]).Inv ∧ (meAt true true 8 1 [] []).Inv ∧ s1.Inv :=
  ⟨inv_of_parts (by decide +kernel) (by decide) (by decide) (by decide +kernel),
    inv_of_parts (by decide +kernel) (by decide) (by decide) (by decide +kernel),
    inv_of_parts (by decide +kernel) (by decide) (by decide) (by decide +kernel)⟩

theorem witness_EveryOperationIsTotal :
    (Instr.frameEncode 0 0 .success longest).wellFormed = true ∧ s0.cfg.meRxbufCap = none := by decide +kernel

theorem witness_InexpressibleOperandsAreRefused :
    255 < (List.replicate 256 0 : Bytes).length ∧ 2 ^ 64 ≤ (List.replicate (messageBound) 0 : Bytes).length := by
  rw [List.length_replicate, List.length_replicate]
  exact ⟨by decide, Nat.le_refl _⟩

theorem witness_EachOperationWritesItsOwnUnit :
    gives (exec (.feRxByte 0x7E) s10) (feAt .length 0 0 0 0 [] 0 0 2) ∧ onFrameEngine (.feRxByte 0x7E) = true
    ∧ gives (exec .meBind s0) s1 ∧ onMessageEngine .meBind = true
    ∧ gives (exec (.serU16 0) s0) { s0 with ret := some (.bytes [0, 0]) } ∧ onCodec (.serU16 0) = true := by decide

/-- Two states that share one engine and differ in the other. -/
theorem witness_EnginesDoNotInfluenceEachOther :
    let t := { meAt true false 0 0 [] [] with fe := s10.fe }
    gives (exec (.feRxByte 0x7E) s10) (feAt .length 0 0 0 0 [] 0 0 2) ∧ s10.cfg = t.cfg ∧ s10.fe = t.fe
    ∧ onFrameEngine (.feRxByte 0x7E) = true
    ∧ gives (exec .meBind s0) s1 ∧ s0.cfg = s10.cfg ∧ s0.me = s10.me ∧ onMessageEngine .meBind = true := by decide

theorem witness_LocalCommandsDoNotAdvanceReception :
    isLocalCommand (.meSend [0x41]) = true
    ∧ gives (exec (.meSend [0x41]) s1) (effects (meAt false false 0 0 [] [[0x41]]) [.meTx 0xA1]) := by decide

end Sys2Proof.Tests
end

section
/-! `SER_U64` and its inverse (R119): the serializer writes the base-256 digits of a value, the inverse reads them. -/

namespace Sys2Proof.Proofs.Codec

open Machine Claims

/-- A byte of a word is a base-256 digit of its value. -/
theorem extractLsb'_byte (v : U64) (k : Nat) : v.extractLsb' k 8 = BitVec.ofNat 8 (v.toNat / 2 ^ k) := by
  rw [BitVec.extractLsb', Nat.shiftRight_eq_div_pow]

theorem serializeU64_eq_lengthBytes (v : U64) : serializeU64 v = lengthBytes v.toNat := by
  simp only [serializeU64, lengthBytes, extractLsb'_byte, Nat.pow_zero, Nat.div_one]

/-- While the top byte of the register is clear, a byte shifted in loses nothing. -/
theorem shiftInU64_toNat_of_lt {acc : U64} (h : acc.toNat < 2 ^ 56) (b : Byte) :
    (shiftInU64 acc b).toNat = acc.toNat * 256 + b.toNat := by
  rw [shiftInU64_toNat, Nat.mod_eq_of_lt h]

/-- Bytes shifted into a register that has room for all of them append their base-256 digits to its value. -/
theorem foldl_shiftInU64_toNat (x : Bytes) (acc : U64) (room : (acc.toNat + 1) * 256 ^ x.length ≤ 2 ^ 64) :
    (x.foldl shiftInU64 acc).toNat = x.foldl (fun n b => n * 256 + b.toNat) acc.toNat := by
  induction x generalizing acc with
  | nil => rfl
  | cons b x ih =>
    have roomShifted : (acc.toNat + 1) * 256 * 256 ^ x.length ≤ 2 ^ 64 := by
      rwa [List.length_cons, Nat.pow_succ', ← Nat.mul_assoc] at room
    have fits : acc.toNat < 2 ^ 56 := by
      have := (Nat.le_mul_of_pos_right _ (Nat.pow_pos (by decide))).trans roomShifted
      omega
    have value := shiftInU64_toNat_of_lt fits b
    have digit : (shiftInU64 acc b).toNat + 1 ≤ (acc.toNat + 1) * 256 := by omega
    rw [List.foldl_cons, List.foldl_cons, ih _ ((Nat.mul_le_mul_right _ digit).trans roomShifted), value]

/-- Eight bytes fit the register exactly. -/
theorem deserializeU64_toNat {x : Bytes} (h : x.length = 8) :
    (deserializeU64 x).toNat = x.foldl (fun n b => n * 256 + b.toNat) 0 :=
  foldl_shiftInU64_toNat x 0 (by rw [h]; decide)

/-- Settles O15: the serialized bytes are the base-256 digits of the value (R119), and reading eight of them shifts no
bit out of the register. The fold itself is the definition of `deserializeU64`. -/
theorem serU64IsMostSignificantByteFirst : Obligations.SerU64IsMostSignificantByteFirst := by
  intro s
  refine ⟨fun v => ?_, fun x => rfl, fun x h => deserializeU64_toNat h⟩
  rw [← serializeU64_eq_lengthBytes]
  rfl

end Sys2Proof.Proofs.Codec
end

section
/-! The header rows of the byte-fed function (R149 to R151), each by all three ways its byte arrives: the sub-operation
named after the row, the byte operation, and the one-byte chunk. -/

namespace Sys2Proof.Proofs.HeaderRows

open Machine

/-! A sub-operation is the arrival of its byte in every state (R90, log entry 7): where its row is selected, the row is
what the byte-fed function runs. -/

theorem exec_feRxNumber (b : Byte) (s : State) : exec (.feRxNumber b) s = .next (feReceive b s) :=
  ite_eq_right_iff.mpr fun h => congrArg _ (feReceive_number b h).symm

theorem exec_feRxPort (b : Byte) (s : State) : exec (.feRxPort b) s = .next (feReceive b s) :=
  ite_eq_right_iff.mpr fun h => congrArg _ (feReceive_port b h).symm

theorem exec_feRxControl (b : Byte) (s : State) : exec (.feRxControl b) s = .next (feReceive b s) :=
  ite_eq_right_iff.mpr fun h => congrArg _ (feReceive_control b h).symm

/-- A byte that is received as `t` leads to `t` by whichever operation it arrives. -/
theorem exec_eq_of_feReceive {row : Instr} {b : Byte} {s t : State} (arrival : exec row s = .next (feReceive b s))
    (received : feReceive b s = t) : ∀ i ∈ [row, .feRxByte b, .feRxChunk [b]], exec i s = .next t := by
  subst received
  have byByte : exec (.feRxByte b) s = .next (feReceive b s) := rfl
  have byChunk : exec (.feRxChunk [b]) s = .next (feReceive b s) := rfl
  simp [arrival, byByte, byChunk]

/-- R151 with an empty payload: the payload row is skipped. -/
theorem feControl_of_len_eq_zero {s : State} (b : Byte) (h : s.fe.len = 0) :
    feControl b s = s.withFe { s.fe with ctrl := b, state := .crc } := by
  rw [feControl, if_pos h]

theorem feControl_of_len_ne_zero {s : State} (b : Byte) (h : s.fe.len ≠ 0) :
    feControl b s = s.withFe { s.fe with ctrl := b, state := .payload } := by
  rw [feControl, if_neg h]

/-- Settles O23: in each header state every arrival of a byte is its row (R149 to R151), and the row's definition is the
whole next state; only CONTROL branches, on the declared length. -/
theorem headerRowsStoreTheirByte : Obligations.HeaderRowsStoreTheirByte := by
  intro s b
  refine ⟨fun number => ?_, fun port => ?_, fun control empty => ?_, fun control nonempty => ?_⟩
  · exact exec_eq_of_feReceive (exec_feRxNumber b s) (feReceive_number b number)
  · exact exec_eq_of_feReceive (exec_feRxPort b s) (feReceive_port b port)
  · exact exec_eq_of_feReceive (exec_feRxControl b s)
      ((feReceive_control b control).trans (feControl_of_len_eq_zero b empty))
  · exact exec_eq_of_feReceive (exec_feRxControl b s)
      ((feReceive_control b control).trans (feControl_of_len_ne_zero b nonempty))

end Sys2Proof.Proofs.HeaderRows
end

section
/-! The rows of phase IDLE of the Message Engine (R187), by every way their byte arrives: the sub-operation named after the
row, the byte operation, and the one-byte chunk. -/

namespace Sys2Proof.Proofs.MessageIdleRows

open Machine

/-- R184: phase IDLE is a bound engine with no transfer started. -/
theorem inIdle_iff (m : MessageEngine) : m.inIdle = true ↔ m.bound = true ∧ m.ts = false := by
  rw [MessageEngine.inIdle, Bool.and_eq_true, Bool.not_eq_true']

/-- Composition with the empty continuation changes nothing, whatever the outcome. -/
theorem andThen_next_right (r : Result) : andThen r .next = r := by
  cases r <;> rfl

theorem exec_meRxChunk_singleton (b : Byte) (s : State) : exec (.meRxChunk [b]) s = meReceive b s :=
  andThen_next_right (meReceive b s)

/-- The sub-operation is the arrival of its byte in every state (R90, log entry 7). -/
theorem exec_meRxIdleOther (b : Byte) (s : State) : exec (.meRxIdleOther b) s = meReceive b s := by
  refine ite_eq_right_iff.mpr fun ⟨inIdle, notStart, notAck⟩ => ?_
  obtain ⟨bound, idle⟩ := (inIdle_iff s.me).mp inIdle
  exact (meReceive_idle_other bound idle notStart notAck).symm

/-- A byte that is received with outcome `r` has that outcome by whichever operation it arrives. -/
theorem exec_eq_of_meReceive {row : Instr} {b : Byte} {s : State} {r : Result} (arrival : exec row s = meReceive b s)
    (received : meReceive b s = r) : ∀ i ∈ [row, .meRxByte b, .meRxChunk [b]], exec i s = r := by
  have byByte : exec (.meRxByte b) s = meReceive b s := rfl
  simp [arrival, byByte, exec_meRxChunk_singleton, received]

/-- R187, R225: the Nack is the only change. -/
theorem meIdleOther_eq (s : State) : meIdleOther s = { s with trace := s.trace ++ [.meTx s.cfg.meNack] } := rfl

/-- Settles O48: a byte that is neither Start nor Ack runs the row of R187 by every way it arrives, and R6 (c) makes
`ME_NACK` such a byte. -/
theorem otherIdleBytesAreNacked : Obligations.OtherIdleBytesAreNacked := by
  intro s b bound idle
  rw [← meIdleOther_eq]
  refine ⟨fun notStart notAck => ?_, fun ⟨_, _, nackNotStart, nackNotAck⟩ => ?_⟩
  · exact exec_eq_of_meReceive (exec_meRxIdleOther b s) (meReceive_idle_other bound idle notStart notAck)
  · exact meReceive_idle_other bound idle nackNotStart nackNotAck

end Sys2Proof.Proofs.MessageIdleRows
end

section
/-! Both serializers and their inverses (R118 to R120), through the values the bytes stand for. -/

namespace Sys2Proof.Proofs.Serializers

open Machine Claims Codec

/-- A word is its high byte and its low byte. -/
theorem serializeU16_eq_ofNat (v : U16) :
    serializeU16 v = [BitVec.ofNat 8 (v.toNat / 256), BitVec.ofNat 8 v.toNat] := by
  simp only [serializeU16, BitVec.extractLsb', Nat.shiftRight_eq_div_pow, Nat.reducePow, Nat.div_one]

theorem deserializeU16_serializeU16 (v : U16) :
    deserializeU16 (BitVec.ofNat 8 (v.toNat / 256)) (BitVec.ofNat 8 v.toNat) = v := by
  apply BitVec.eq_of_toNat_eq
  rw [deserializeU16_toNat, BitVec.toNat_ofNat, BitVec.toNat_ofNat]
  omega

theorem serializeU16_deserializeU16 (b0 b1 : Byte) : serializeU16 (deserializeU16 b0 b1) = [b0, b1] := by
  have high : BitVec.ofNat 8 ((deserializeU16 b0 b1).toNat / 256) = b0 := by
    apply BitVec.eq_of_toNat_eq
    rw [deserializeU16_toNat, BitVec.toNat_ofNat]
    omega
  have low : BitVec.ofNat 8 (deserializeU16 b0 b1).toNat = b1 := by
    apply BitVec.eq_of_toNat_eq
    rw [deserializeU16_toNat, BitVec.toNat_ofNat]
    omega
  rw [serializeU16_eq_ofNat, high, low]

/-- A byte sequence of length eight, byte by byte. -/
theorem eq_eight_of_length {x : Bytes} (h : x.length = 8) :
    ∃ b0 b1 b2 b3 b4 b5 b6 b7 : Byte, x = [b0, b1, b2, b3, b4, b5, b6, b7] := by
  match x, h with
  | [b0, b1, b2, b3, b4, b5, b6, b7], _ => exact ⟨b0, b1, b2, b3, b4, b5, b6, b7, rfl⟩

theorem deserializeU64_serializeU64 (v : U64) : deserializeU64 (serializeU64 v) = v := by
  apply BitVec.eq_of_toNat_eq
  rw [deserializeU64_toNat (serializeU64_length v), serializeU64_eq_lengthBytes]
  simp only [lengthBytes, List.foldl_cons, List.foldl_nil, BitVec.toNat_ofNat]
  omega

theorem serializeU64_deserializeU64 {x : Bytes} (h : x.length = 8) : serializeU64 (deserializeU64 x) = x := by
  obtain ⟨b0, b1, b2, b3, b4, b5, b6, b7, rfl⟩ := eq_eight_of_length h
  rw [serializeU64_eq_lengthBytes, deserializeU64_toNat h]
  simp only [lengthBytes, List.foldl_cons, List.foldl_nil, List.cons.injEq, and_true]
  refine ⟨?_, ?_, ?_, ?_, ?_, ?_, ?_, ?_⟩ <;>
    · apply BitVec.eq_of_toNat_eq
      rw [BitVec.toNat_ofNat]
      omega

/-- Settles O14: the two bytes are the quotient and the remainder by 256, and the inverse is their value (D2). -/
theorem serU16IsMostSignificantByteFirst : Obligations.SerU16IsMostSignificantByteFirst := by
  refine fun s => ⟨fun v => ?_, deserializeU16_toNat⟩
  rw [← serializeU16_eq_ofNat]
  rfl

/-- Settles O16: each inverse reads the value back, and the value determines the bytes. -/
theorem serializersRoundTrip : Obligations.SerializersRoundTrip :=
  ⟨fun v => ⟨_, _, serializeU16_eq_ofNat v, deserializeU16_serializeU16 v⟩, serializeU16_deserializeU16,
    deserializeU64_serializeU64, fun _ => serializeU64_deserializeU64⟩

end Sys2Proof.Proofs.Serializers
end

section
/-! Frame images (R80, R121, R124): the image of a frame is what `FRAME_DECODE` splits, and nothing else is. -/

namespace Sys2Proof.Proofs.FrameImages

open Machine Claims Serializers

theorem wireCode_of_mem_controlCodes {c : Config} {k : Control} {code : Byte} (h : (k, code) ∈ controlCodes c) :
    wireCode c k = code := by
  simp only [controlCodes, List.mem_cons, Prod.mk.injEq, List.not_mem_nil, or_false] at h
  rcases h with ⟨rfl, rfl⟩ | ⟨rfl, rfl⟩ | ⟨rfl, rfl⟩ | ⟨rfl, rfl⟩ | ⟨rfl, rfl⟩ <;> rfl

/-- The model's image of a frame is the image of R80 written out. -/
theorem frameImage_eq_wireImage (c : Config) (number port : Byte) (k : Control) (payload : Bytes) :
    frameImage c number port k payload = wireImage c number port (wireCode c k) payload := by
  simp only [frameImage, frameImageRaw, wireImage, imageBody, serializeU16_eq_ofNat]

theorem wireImage_length (c : Config) (number port code : Byte) (payload : Bytes) :
    (wireImage c number port code payload).length = 8 + payload.length := by
  simp only [wireImage, imageBody, List.length_append, List.length_cons, List.length_nil]
  omega

theorem payloadFits_iff (payload : Bytes) : payloadFits payload = true ↔ payload.length ≤ 255 :=
  decide_eq_true_iff

theorem toNat_length {payload : Bytes} (fits : payload.length ≤ 255) :
    (BitVec.ofNat 8 payload.length).toNat = payload.length := by
  rw [BitVec.toNat_ofNat, Nat.mod_eq_of_lt (by omega)]

/-- A byte sequence in the form of R80, with any number of payload bytes, CRC bytes and last byte. -/
def rawImage (c : Config) (n number port code : Byte) (payload : Bytes) (hi lo last : Byte) : Bytes :=
  [c.frameStart, n, number, port, code] ++ payload ++ [hi, lo, last]

/-- The frame such a sequence carries. -/
def rawFrame (n number port code : Byte) (payload : Bytes) (hi lo : Byte) : Frame :=
  { length := n, number := number, port := port, control := code, payload := payload, crc := deserializeU16 hi lo }

theorem rawImage_length (c : Config) (n number port code : Byte) (payload : Bytes) (hi lo last : Byte) :
    (rawImage c n number port code payload hi lo last).length = 8 + payload.length := by
  simp only [rawImage, List.length_append, List.length_cons, List.length_nil]
  omega

/-- R124 on a sequence whose second byte counts its payload. -/
theorem frameOfImage_rawImage (c : Config) (n number port code : Byte) (payload : Bytes) (hi lo last : Byte)
    (counted : payload.length = n.toNat) :
    frameOfImage c (rawImage c n number port code payload hi lo last)
      = .decoded (rawFrame n number port code payload hi lo) (decide (crcOf payload = deserializeU16 hi lo))
          (decide (last = c.frameEnd)) := by
  have long : ¬ (rawImage c n number port code payload hi lo last).length < 8 := by
    rw [rawImage_length]
    omega
  have header : rawImage c n number port code payload hi lo last
      = c.frameStart :: n :: number :: port :: code :: (payload ++ [hi, lo, last]) := by
    simp only [rawImage, List.cons_append, List.nil_append]
  unfold frameOfImage
  rw [if_neg long, header]
  simp [rawFrame, ← counted]

/-- R124 the other way: a sequence that decodes is in the form of R80, its second byte counts the payload, and the two
flags compare the CRC and the END byte. -/
theorem eq_rawImage_of_frameOfImage {c : Config} {w : Bytes} {f : Frame} {crcOk endOk : Bool}
    (h : frameOfImage c w = .decoded f crcOk endOk) :
    ∃ n number port code payload hi lo last, w = rawImage c n number port code payload hi lo last
      ∧ payload.length = n.toNat ∧ f = rawFrame n number port code payload hi lo
      ∧ crcOk = decide (crcOf payload = deserializeU16 hi lo) ∧ endOk = decide (last = c.frameEnd) := by
  unfold frameOfImage at h
  split at h
  · cases h
  split at h
  case h_2 => cases h
  case h_1 w0 n number port code rest _ =>
    split at h
    · cases h
    rename_i start
    split at h
    · cases h
    rename_i count
    split at h
    case h_2 => cases h
    case h_1 hi lo last tail =>
      cases h
      have split : rest = rest.take n.toNat ++ [hi, lo, last] := by rw [← tail, List.take_append_drop]
      refine ⟨n, number, port, code, rest.take n.toNat, hi, lo, last, ?_, ?_, rfl, rfl, rfl⟩
      · rw [rawImage, ← not_not.mp start]
        simp only [List.cons_append, List.nil_append, ← split]
      · rw [List.length_take]
        omega

/-- A frame image is in the form of `rawImage`, its CRC bytes the two halves of the checksum. -/
theorem imageBody_eq_rawImage (c : Config) (number port code : Byte) (payload : Bytes) (crc : U16) (last : Byte) :
    imageBody c number port code payload crc ++ [last]
      = rawImage c (BitVec.ofNat 8 payload.length) number port code payload (BitVec.ofNat 8 (crc.toNat / 256))
          (BitVec.ofNat 8 crc.toNat) last := by
  simp only [imageBody, rawImage, List.append_assoc, List.cons_append, List.nil_append]

theorem frameOfImage_wireImage (c : Config) (number port code : Byte) {payload : Bytes} (fits : payload.length ≤ 255) :
    frameOfImage c (wireImage c number port code payload)
      = .decoded (receivedFrame number port code payload (crcOf payload)) true true := by
  rw [wireImage, imageBody_eq_rawImage, frameOfImage_rawImage _ _ _ _ _ _ _ _ _ (toNat_length fits).symm,
    rawFrame, deserializeU16_serializeU16, decide_eq_true rfl, decide_eq_true rfl]
  rfl

/-- A valid image (R92) is the wire image of the frame it decodes to. -/
theorem eq_wireImage_of_frameOfImage {c : Config} {w : Bytes} {f : Frame}
    (h : frameOfImage c w = .decoded f true true) :
    w = wireImage c f.number f.port f.control f.payload ∧ f.payload.length ≤ 255 := by
  obtain ⟨n, number, port, code, payload, hi, lo, last, rfl, counted, rfl, crcOk, endOk⟩ :=
    eq_rawImage_of_frameOfImage h
  have crc : serializeU16 (crcOf payload) = [hi, lo] := by
    rw [of_decide_eq_true crcOk.symm, serializeU16_deserializeU16]
  rw [serializeU16_eq_ofNat, List.cons.injEq, List.cons.injEq] at crc
  obtain ⟨high, low, -⟩ := crc
  refine ⟨?_, ?_⟩
  · rw [rawFrame, wireImage, imageBody_eq_rawImage, high, low, counted, BitVec.ofNat_toNat, BitVec.setWidth_eq,
      of_decide_eq_true endOk.symm]
  · have := n.isLt
    change payload.length ≤ 255
    omega

/-- Settles O17: the model's image is the image of R80 with the member's code. -/
theorem frameEncodeReturnsTheWireImage : Obligations.FrameEncodeReturnsTheWireImage := by
  intro s number port k code payload member fits
  refine ⟨?_, wireImage_length ..⟩
  have encoded : exec (.frameEncode number port k payload) s
      = .next (s.answer (.bytes (frameImage s.cfg number port k payload))) :=
    if_pos ((payloadFits_iff payload).mpr fits)
  rw [encoded, frameImage_eq_wireImage, wireCode_of_mem_controlCodes member]
  rfl

/-- Settles O18: the form of R80 is decoded field by field, and a sequence that decodes has that form, which none of
the three defects leaves. -/
theorem frameDecodeSplitsTheImage : Obligations.FrameDecodeSplitsTheImage := by
  refine fun s => ⟨fun n number port code hi lo last payload counted => ?_, fun w defect => ?_⟩
  · have answered : exec (.frameDecode (rawImage s.cfg n number port code payload hi lo last)) s
        = .next (s.answer (.frame (frameOfImage s.cfg (rawImage s.cfg n number port code payload hi lo last)))) := rfl
    rw [frameOfImage_rawImage _ _ _ _ _ _ _ _ _ counted] at answered
    refine answered.trans ?_
    simp only [rawFrame, ← deserializeU16_toNat, BitVec.ofNat_toNat, BitVec.setWidth_eq, BitVec.toNat_inj]
    rfl
  · have answered : exec (.frameDecode w) s = .next (s.answer (.frame (frameOfImage s.cfg w))) := rfl
    cases decoded : frameOfImage s.cfg w with
    | malformed => rwa [decoded] at answered
    | decoded f crcOk endOk =>
      obtain ⟨n, number, port, code, payload, hi, lo, last, rfl, counted, -⟩ := eq_rawImage_of_frameOfImage decoded
      rw [rawImage_length, counted] at defect
      rcases defect with short | start | count
      · omega
      · exact absurd rfl start
      · exact absurd rfl (count n rfl)

/-- Settles O19: an image of R80 decodes to the frame it was made of, and both checks pass. -/
theorem frameDecodeInvertsFrameEncode : Obligations.FrameDecodeInvertsFrameEncode := by
  intro c number port k code payload member fits
  rw [frameImage_eq_wireImage, wireCode_of_mem_controlCodes member, frameOfImage_wireImage c number port code fits]

end Sys2Proof.Proofs.FrameImages
end

section
/-! Transactions (R40, R93, log entry 4). Both directions go through one relation: `IsTransaction c t w i` says that the
tag `t` and the operand bytes `w` are those of the well-formed operation `i`. Every operand form of the decoder has one
lemma for each direction. -/

namespace Sys2Proof.Proofs.Transactions

open Machine Claims Serializers FrameImages

/-- The tag and the operand bytes are those of a well-formed operation. -/
structure IsTransaction (c : Config) (t : Byte) (w : Bytes) (i : Instr) : Prop where
  tag : i.tag = t
  operands : i.operandBytes c = w
  wellFormed : i.wellFormed = true

theorem IsTransaction.encode_eq {c : Config} {t : Byte} {w : Bytes} {i : Instr} (h : IsTransaction c t w i) :
    encode c i = t :: w := by
  rw [encode, h.tag, h.operands]

theorem controlIndex_of_controlOfIndex {b : Byte} {k : Control} (h : controlOfIndex b = some k) :
    controlIndex k = b := by
  simp only [controlOfIndex] at h
  split_ifs at h with h0 h1 h2 h3 h4 <;> cases h <;> exact Eq.symm ‹_›

/-! From the decoder's answer to the operation. -/

section Sound

variable {c : Config} {t : Byte} {w : Bytes} {i : Instr}

theorem decodeNullary_sound {j : Instr} (h : decodeNullary t j w = .ok i)
    (built : IsTransaction c t [] j) : IsTransaction c t w i := by
  unfold decodeNullary at h
  split at h <;> cases h
  exact built

theorem decodeByteOperand_sound {mk : Byte → Instr} (h : decodeByteOperand t mk w = .ok i)
    (built : ∀ b, IsTransaction c t [b] (mk b)) : IsTransaction c t w i := by
  unfold decodeByteOperand at h
  split at h <;> cases h
  exact built _

theorem decodeU16Operand_sound {mk : U16 → Instr} (h : decodeU16Operand t mk w = .ok i)
    (built : ∀ v, IsTransaction c t (serializeU16 v) (mk v)) : IsTransaction c t w i := by
  unfold decodeU16Operand at h
  split at h <;> cases h
  rw [← serializeU16_deserializeU16]
  exact built _

theorem decodeU64Operand_sound {mk : U64 → Instr} (h : decodeU64Operand t mk w = .ok i)
    (built : ∀ v, IsTransaction c t (serializeU64 v) (mk v)) : IsTransaction c t w i := by
  unfold decodeU64Operand at h
  split at h
  case isFalse => cases h
  case isTrue eight =>
    cases h
    have := built (deserializeU64 w)
    rwa [serializeU64_deserializeU64 eight] at this

theorem decodeStepOperands_sound (h : decodeStepOperands t w = .ok i)
    (built : ∀ v b, IsTransaction c t (serializeU16 v ++ [b]) (.crc16Step v b)) : IsTransaction c t w i := by
  unfold decodeStepOperands at h
  split at h <;> cases h
  case h_1 hi lo b =>
    have := built (deserializeU16 hi lo) b
    rwa [serializeU16_deserializeU16] at this

theorem decodeConnectOperands_sound (h : decodeConnectOperands t w = .ok i)
    (built : ∀ p h, IsTransaction c t (p :: h.name) (.feConnect p h)) : IsTransaction c t w i := by
  unfold decodeConnectOperands at h
  split at h <;> cases h
  exact built _ _

theorem decodeFrameOperands_sound {mk : Byte → Byte → Control → Bytes → Instr} (h : decodeFrameOperands t mk w = .ok i)
    (built : ∀ n p k s, payloadFits s = true → IsTransaction c t (encodeFrameOperands n p k s) (mk n p k s)) :
    IsTransaction c t w i := by
  unfold decodeFrameOperands at h
  split at h
  case h_2 => cases h
  case h_1 n p b payload =>
    split at h
    case h_2 => cases h
    case h_1 k member =>
      split at h <;> cases h
      rename_i fits
      have := built n p k payload fits
      rwa [encodeFrameOperands, controlIndex_of_controlOfIndex member] at this

theorem decodeSendOperand_sound (h : decodeSendOperand w = .ok i)
    (built : messageFits w = true → IsTransaction c t w (.meSend w)) : IsTransaction c t w i := by
  unfold decodeSendOperand at h
  split at h <;> cases h
  exact built ‹_›

theorem decodeMessageByte_sound (ht : t = 32) (h : decodeMessageByte c t w = .ok i) : IsTransaction c t w i := by
  subst ht
  unfold decodeMessageByte at h
  split at h
  case h_2 => cases h
  case h_1 b =>
    split_ifs at h with start ack nack <;> cases h
    · exact ⟨rfl, start ▸ rfl, rfl⟩
    · exact ⟨rfl, ack ▸ rfl, rfl⟩
    · exact ⟨rfl, nack ▸ rfl, rfl⟩

theorem isTransaction_frameInstr {number port : Byte} {payload : Bytes} (k : Control) (fits : payload.length ≤ 255) :
    IsTransaction c 30 (frameImage c number port k payload) (frameInstr number port payload k) := by
  have fits := (payloadFits_iff payload).mpr fits
  cases k <;> exact ⟨rfl, rfl, fits⟩

/-- R92: a valid image whose control byte is a member's code is the image of the frame it carries. -/
theorem eq_frameImage_of_frameOfImage {f : Frame} {k : Control} (valid : frameOfImage c w = .decoded f true true)
    (member : controlOfCode c f.control = some k) : w = frameImage c f.number f.port k f.payload := by
  rw [frameImage_eq_wireImage, wireCode_of_controlOfCode member]
  exact (eq_wireImage_of_frameOfImage valid).1

theorem decodeFrameImage_sound (h : decodeFrameImage c w = .ok i) : IsTransaction c 30 w i := by
  unfold decodeFrameImage at h
  split at h
  case h_2 => cases h
  case h_1 f valid =>
    split at h
    case h_2 => cases h
    case h_1 k member =>
      cases h
      rw [eq_frameImage_of_frameOfImage valid member]
      exact isTransaction_frameInstr k (eq_wireImage_of_frameOfImage valid).2

theorem decodeReplyImage_sound (h : decodeReplyImage c w = .ok i) : IsTransaction c 31 w i := by
  unfold decodeReplyImage at h
  split at h
  case h_2 => cases h
  case h_1 valid =>
    split at h <;> cases h
    all_goals exact ⟨rfl, (eq_frameImage_of_frameOfImage valid ‹_›).symm, rfl⟩

/-- The decoder answers the operation whose tag and operand bytes it was given, and only well-formed ones. -/
theorem decodeOperands_sound (h : decodeOperands c t w = .ok i) : IsTransaction c t w i := by
  have tagged : ∀ k : Byte, t.toNat = k.toNat → k = t := fun k e => BitVec.eq_of_toNat_eq e.symm
  unfold decodeOperands at h
  split at h
  case h_1 e => exact decodeStepOperands_sound h (fun _ _ => ⟨tagged 0 e, rfl, rfl⟩)
  case h_3 e => exact decodeU16Operand_sound h (fun _ => ⟨tagged 2 e, rfl, rfl⟩)
  case h_4 e => exact decodeU64Operand_sound h (fun _ => ⟨tagged 3 e, rfl, rfl⟩)
  case h_34 e => exact decodeU64Operand_sound h (fun _ => ⟨tagged 33 e, rfl, rfl⟩)
  case h_5 e => exact decodeFrameOperands_sound h (fun _ _ _ _ fits => ⟨tagged 4 e, rfl, fits⟩)
  case h_10 e => exact decodeFrameOperands_sound h (fun _ _ _ _ fits => ⟨tagged 9 e, rfl, fits⟩)
  case h_7 e => exact decodeConnectOperands_sound h (fun _ _ => ⟨tagged 6 e, rfl, rfl⟩)
  case h_13 e => exact decodeSendOperand_sound h (fun fits => ⟨tagged 12 e, rfl, fits⟩)
  case h_31 e => exact tagged 30 e ▸ decodeFrameImage_sound h
  case h_32 e => exact tagged 31 e ▸ decodeReplyImage_sound h
  case h_33 e => exact decodeMessageByte_sound (tagged 32 e).symm h
  case h_36 => cases h
  case h_2 | h_6 | h_9 | h_15 | h_35 =>
    cases h
    exact ⟨tagged _ ‹_›, rfl, rfl⟩
  case h_11 | h_12 | h_16 => exact decodeNullary_sound h ⟨tagged _ ‹_›, rfl, rfl⟩
  all_goals exact decodeByteOperand_sound h (fun _ => ⟨tagged _ ‹_›, rfl, rfl⟩)

end Sound

theorem isTransaction_of_decode {c : Config} {x : Bytes} {i : Instr} (h : decode c x = .ok i) :
    ∃ t w, x = t :: w ∧ IsTransaction c t w i := by
  cases x with
  | nil => cases h
  | cons t w => exact ⟨t, w, rfl, decodeOperands_sound h⟩

/-! From the operation to the decoder's answer. -/

section Complete

variable {c : Config}

theorem decodeU16Operand_serializeU16 (t : Byte) (mk : U16 → Instr) (v : U16) :
    decodeU16Operand t mk (serializeU16 v) = .ok (mk v) := by
  rw [serializeU16_eq_ofNat, decodeU16Operand, deserializeU16_serializeU16]

theorem decodeU64Operand_serializeU64 (t : Byte) (mk : U64 → Instr) (v : U64) :
    decodeU64Operand t mk (serializeU64 v) = .ok (mk v) := by
  rw [decodeU64Operand, if_pos (serializeU64_length v), deserializeU64_serializeU64]

theorem decodeStepOperands_serializeU16 (t : Byte) (v : U16) (b : Byte) :
    decodeStepOperands t (serializeU16 v ++ [b]) = .ok (.crc16Step v b) := by
  rw [serializeU16_eq_ofNat, List.cons_append, List.cons_append, List.nil_append, decodeStepOperands,
    deserializeU16_serializeU16]

theorem decodeFrameOperands_encodeFrameOperands (t : Byte) (mk : Byte → Byte → Control → Bytes → Instr)
    (number port : Byte) (k : Control) {payload : Bytes} (fits : payloadFits payload = true) :
    decodeFrameOperands t mk (encodeFrameOperands number port k payload) = .ok (mk number port k payload) := by
  simp [encodeFrameOperands, decodeFrameOperands, controlOfIndex_controlIndex, fits]

theorem decodeSendOperand_of_fits {m : Bytes} (fits : messageFits m = true) : decodeSendOperand m = .ok (.meSend m) :=
  if_pos fits

theorem decodeMessageByte_meAck (t : Byte) (h : c.meAck ≠ c.meStart) :
    decodeMessageByte c t [c.meAck] = .ok .msgAck := by
  rw [decodeMessageByte, if_neg h, if_pos rfl]

theorem decodeMessageByte_meNack (t : Byte) (start : c.meNack ≠ c.meStart) (ack : c.meNack ≠ c.meAck) :
    decodeMessageByte c t [c.meNack] = .ok .msgNack := by
  rw [decodeMessageByte, if_neg start, if_neg ack, if_pos rfl]

theorem decodeFrameImage_frameImage (distinct : c.ControlsDistinct) (number port : Byte) (k : Control) {payload : Bytes}
    (fits : payloadFits payload = true) :
    decodeFrameImage c (frameImage c number port k payload) = .ok (frameInstr number port payload k) := by
  rw [frameImage_eq_wireImage, decodeFrameImage, frameOfImage_wireImage _ _ _ _ ((payloadFits_iff payload).mp fits)]
  simp [receivedFrame, controlOfCode_wireCode distinct]

/-- The reply row of a control member. A Transmission is no reply (R86), and stands for its frame here. -/
def replyInstr (number port : Byte) : Control → Instr
  | .transmission => .frameTransmission number port []
  | .success => .replySuccess number port
  | .crcChecksumFailed => .replyCrcFail number port
  | .wrongEndByte => .replyWrongEnd number port
  | .portNotConnect => .replyPortNc number port

theorem decodeReplyImage_replyImage (distinct : c.ControlsDistinct) (number port : Byte) (k : Control)
    (reply : k ≠ .transmission) :
    decodeReplyImage c (replyImage c number port k) = .ok (replyInstr number port k) := by
  rw [replyImage, frameImage_eq_wireImage, decodeReplyImage, frameOfImage_wireImage _ _ _ _ (Nat.zero_le _)]
  simp only [receivedFrame, controlOfCode_wireCode distinct]
  cases k
  case transmission => exact absurd rfl reply
  all_goals rfl

end Complete

/-- V-ENC-01: the image of the vector's frame, its two CRC bytes computed (G1, D2). -/
theorem frameImage_encodingVector : frameImage Config.tc1 0 10 .transmission [0x12, 0xAA]
    = [0x7E, 0x02, 0x00, 0x0A, 0x01, 0x12, 0xAA, 0xDF, 0x8C, 0x7F] := by
  have first : crcStep 0x0000 0x12 = 0x0D80 := by decide
  have second : crcStep 0x0D80 0xAA = 0xDF8C := by decide
  rw [frameImage, frameImageRaw, crcOf, crcFold_cons, first, crcFold_cons, second, crcFold_nil]
  rfl

/-- Settles O5: the frame is read back from its image, and the decoder computes the others. -/
theorem writtenOutTransactionsDecode : Obligations.WrittenOutTransactionsDecode := by
  refine ⟨rfl, rfl, rfl, rfl, rfl, rfl, rfl, ?_, rfl, rfl, rfl⟩
  have read := decodeFrameImage_frameImage (c := Config.tc1) (payload := [0x12, 0xAA]) (by decide) 0 10 .transmission rfl
  rw [frameImage_encodingVector] at read
  exact read

/-- Settles O6: each operand form is read back by the decoder's case for it; R6 keeps the control codes and the message
bytes apart, and the bounds of R93 let payload and message through. -/
theorem decodeOfEncodeGivesTheOperation : Obligations.DecodeOfEncodeGivesTheOperation := by
  rintro c i ⟨distinct, startAck, nackStart, nackAck⟩ wellFormed
  cases i
  case crc16Step v b => exact decodeStepOperands_serializeU16 0 v b
  case serU16 v => exact decodeU16Operand_serializeU16 2 .serU16 v
  case serU64 v => exact decodeU64Operand_serializeU64 3 .serU64 v
  case msgLength v => exact decodeU64Operand_serializeU64 33 .msgLength v
  case frameEncode n p k x => exact decodeFrameOperands_encodeFrameOperands 4 .frameEncode n p k wellFormed
  case feSend n p k x => exact decodeFrameOperands_encodeFrameOperands 9 .feSend n p k wellFormed
  case meSend m => exact decodeSendOperand_of_fits wellFormed
  case frameTransmission n p x => exact decodeFrameImage_frameImage distinct n p .transmission wellFormed
  case frameSuccess n p x => exact decodeFrameImage_frameImage distinct n p .success wellFormed
  case frameCrcFail n p x => exact decodeFrameImage_frameImage distinct n p .crcChecksumFailed wellFormed
  case frameWrongEnd n p x => exact decodeFrameImage_frameImage distinct n p .wrongEndByte wellFormed
  case framePortNc n p x => exact decodeFrameImage_frameImage distinct n p .portNotConnect wellFormed
  case replySuccess n p => exact decodeReplyImage_replyImage distinct n p .success (by decide)
  case replyCrcFail n p => exact decodeReplyImage_replyImage distinct n p .crcChecksumFailed (by decide)
  case replyWrongEnd n p => exact decodeReplyImage_replyImage distinct n p .wrongEndByte (by decide)
  case replyPortNc n p => exact decodeReplyImage_replyImage distinct n p .portNotConnect (by decide)
  case msgStart => exact if_pos rfl
  case msgAck => exact decodeMessageByte_meAck 32 startAck.symm
  case msgNack => exact decodeMessageByte_meNack 32 nackStart nackAck
  all_goals rfl

/-- Settles O7: the decoder is sound for the tag and the operand bytes. -/
theorem encodeOfDecodeGivesTheTransaction : Obligations.EncodeOfDecodeGivesTheTransaction := by
  intro c x i decoded
  obtain ⟨t, w, rfl, transaction⟩ := isTransaction_of_decode decoded
  exact transaction.encode_eq

/-- Settles O8: the decoder is sound, and what it answers is within the bounds of R93. -/
theorem decodedOperationsAreWellFormed : Obligations.DecodedOperationsAreWellFormed := by
  intro c x i decoded
  obtain ⟨_, _, -, transaction⟩ := isTransaction_of_decode decoded
  exact transaction.wellFormed

end Sys2Proof.Proofs.Transactions
end

section
/-! The checksum (R112 to R115). The step is eight iterations of a linear, injective shift; the laws follow. -/

namespace Sys2Proof.Proofs.Checksum

open Machine Claims

theorem crcStep_eq_iterate (c : U16) (b : Byte) : crcStep c b = crcShift^[8] (c ^^^ b.setWidth 16) := rfl

theorem crcShift_of_even {c : U16} (even : c.getLsbD 0 = false) : crcShift c = c >>> 1 := by
  rw [crcShift, even, if_neg Bool.false_ne_true]

/-- While the bits shifted out are 0 the polynomial is never added. -/
theorem crcShift_iterate_of_low_zero {c : U16} {n : Nat} (low : ∀ i < n, c.getLsbD i = false) :
    crcShift^[n] c = c >>> n := by
  induction n with
  | zero => rfl
  | succ n ih =>
    have even : (c >>> n).getLsbD 0 = false := by
      rw [BitVec.getLsbD_ushiftRight]
      exact low n (Nat.lt_succ_self n)
    rw [Function.iterate_succ_apply', ih fun i hi => low i (Nat.lt_succ_of_lt hi), crcShift_of_even even,
      BitVec.shiftRight_add]

theorem crcShift_iterate_xor (n : Nat) (a b : U16) : crcShift^[n] (a ^^^ b) = crcShift^[n] a ^^^ crcShift^[n] b := by
  induction n with
  | zero => rfl
  | succ n ih => simp only [Function.iterate_succ_apply', ih, crcShift_xor]

/-- The bit shifted out comes back as the top bit of the polynomial. -/
theorem crcShift_msb (c : U16) : (crcShift c).getLsbD 15 = c.getLsbD 0 := by
  unfold crcShift
  cases low : c.getLsbD 0 <;> simp [crcPolyReflected]

theorem eq_zero_of_crcShift_eq_zero {c : U16} (h : crcShift c = 0) : c = 0 := by
  have even : c.getLsbD 0 = false := by
    rw [← crcShift_msb, h]
    rfl
  rw [crcShift_of_even even] at h
  apply BitVec.eq_of_getLsbD_eq
  intro i hi
  cases i with
  | zero => simpa using even
  | succ i =>
    have bit : (c >>> 1).getLsbD i = c.getLsbD (1 + i) := BitVec.getLsbD_ushiftRight c 1 i
    rw [h, Nat.add_comm 1 i] at bit
    rw [← bit]
    simp

theorem crcShift_injective : Function.Injective crcShift := by
  intro a b h
  have : crcShift (a ^^^ b) = 0 := by rw [crcShift_xor, h, BitVec.xor_self]; rfl
  exact BitVec.xor_eq_zero_iff.mp (eq_zero_of_crcShift_eq_zero this)

/-- With the byte fixed, different registers step to different registers. -/
theorem crcStep_injective_left (b : Byte) : Function.Injective fun c => crcStep c b := fun _ _ h =>
  (BitVec.xor_left_inj _).mp (crcShift_injective.iterate 8 h)

/-- With the register fixed, different bytes step to different registers. -/
theorem crcStep_injective_right (c : U16) : Function.Injective (crcStep c) := by
  intro a b h
  have widened : a.setWidth 16 = b.setWidth 16 := (BitVec.xor_right_inj c).mp (crcShift_injective.iterate 8 h)
  have narrowed := congrArg (BitVec.setWidth 8) widened
  simpa using narrowed

theorem crcFold_injective_left (x : Bytes) : Function.Injective fun c => crcFold c x := by
  intro a b h
  induction x generalizing a b with
  | nil => exact h
  | cons y x ih => exact crcStep_injective_left y (ih h)

theorem crcStep_zero_zero : crcStep 0 0 = 0 := by decide

theorem high_xor_low (x : U16) : (x >>> 8 <<< 8) ^^^ (x.extractLsb' 0 8).setWidth 16 = x := by
  apply BitVec.eq_of_getLsbD_eq
  intro i hi
  by_cases low : i < 8
  · simp [low, hi]
  · have : 8 + (i - 8) = i := by omega
    simp [low, hi, this]

theorem crcShift_iterate_high (x : U16) : crcShift^[8] (x >>> 8 <<< 8) = x >>> 8 := by
  rw [crcShift_iterate_of_low_zero (by simp +contextual)]
  apply BitVec.eq_of_getLsbD_eq
  intro i hi
  simpa using BitVec.lt_of_getLsbD

/-- R113: only the low byte of `c ^ b` meets the polynomial; the rest is shifted down. -/
theorem crcStep_eq_table (c : U16) (b : Byte) :
    crcStep c b = (c >>> 8) ^^^ crcStep 0x0000 ((c ^^^ b.setWidth 16).extractLsb' 0 8) := by
  have dropped : (c ^^^ b.setWidth 16) >>> 8 = c >>> 8 := by
    apply BitVec.eq_of_getLsbD_eq
    simp
  calc crcStep c b
    _ = crcShift^[8] (c ^^^ b.setWidth 16) := crcStep_eq_iterate c b
    _ = crcShift^[8] ((c ^^^ b.setWidth 16) >>> 8 <<< 8)
          ^^^ crcShift^[8] (((c ^^^ b.setWidth 16).extractLsb' 0 8).setWidth 16) := by
      rw [← crcShift_iterate_xor, high_xor_low]
    _ = (c >>> 8) ^^^ crcStep 0x0000 ((c ^^^ b.setWidth 16).extractLsb' 0 8) := by
      rw [crcShift_iterate_high, dropped, crcStep_eq_iterate, BitVec.ofNat_eq_ofNat, BitVec.zero_xor]

theorem crcFold_zipWith_xor (x y : Bytes) (a b : U16) (h : x.length = y.length) :
    crcFold (a ^^^ b) (List.zipWith (· ^^^ ·) x y) = crcFold a x ^^^ crcFold b y := by
  induction x generalizing y a b with
  | nil =>
    cases y with
    | nil => rfl
    | cons _ _ => cases h
  | cons p x ih =>
    cases y with
    | nil => cases h
    | cons q y =>
      rw [List.zipWith_cons_cons, crcFold_cons, crcFold_cons, crcFold_cons, crcStep_xor]
      exact ih y _ _ (Nat.succ.inj h)

/-- A register fed its own two bytes, low byte first, is cleared. -/
theorem crcStep_crcStep_self (c : U16) :
    crcStep (crcStep c (BitVec.ofNat 8 c.toNat)) (BitVec.ofNat 8 (c.toNat / 256)) = 0 := by
  have cancels : (c ^^^ (BitVec.ofNat 8 c.toNat).setWidth 16).extractLsb' 0 8 = 0 := by
    apply BitVec.eq_of_getLsbD_eq
    intro i hi
    have : i < 16 := by omega
    simp [hi, this]
  have high : (BitVec.ofNat 8 (c.toNat / 256)).setWidth 16 = c >>> 8 := by
    apply BitVec.eq_of_toNat_eq
    simp only [BitVec.toNat_setWidth, BitVec.toNat_ofNat, BitVec.toNat_ushiftRight, Nat.shiftRight_eq_div_pow]
    omega
  rw [crcStep_eq_table c, cancels, crcStep_zero_zero, BitVec.ofNat_eq_ofNat, BitVec.xor_zero, crcStep_eq_iterate, high,
    BitVec.xor_self, crcShift_iterate_of_low_zero (by simp)]
  rfl

/-- Settles O9: the step is the iteration of one shift, written out. -/
theorem crcStepIsTheBitSerialForm : Obligations.CrcStepIsTheBitSerialForm := fun _ _ _ => rfl

/-- Settles O10: the step is linear, and a shift that meets no 1 bit adds nothing. -/
theorem crcStepEqualsTheTableForm : Obligations.CrcStepEqualsTheTableForm := crcStep_eq_table

/-- Settles O11: the model's checksum is the fold, and a zero byte keeps a zero register. -/
theorem crcIsTheFoldFromSeedZero : Obligations.CrcIsTheFoldFromSeedZero := by
  refine ⟨fun _ _ => rfl, fun _ _ => rfl, fun n => ?_⟩
  induction n with
  | zero => rfl
  | succ n ih => rwa [crcOf, List.replicate_succ, crcFold_cons, crcStep_zero_zero]

/-- Settles O12: the fold of a concatenation, of a leading zero, and of a sum; and the residue. -/
theorem crcLawsOfR115 : Obligations.CrcLawsOfR115 := by
  refine ⟨fun x y => crcFold_append 0 x y, fun x => ?_, fun x y h => ?_, fun x => ?_⟩
  · rw [crcOf, crcFold_cons, crcStep_zero_zero, crcOf]
  · exact crcFold_zipWith_xor x y 0 0 h
  · rw [crcOf, crcFold_append, crcFold_cons, crcFold_cons, crcFold_nil, ← crcOf, crcStep_crcStep_self]

/-- Settles O13: the step is injective in the byte that differs, and in the register from there on. -/
theorem crcDetectsAnySingleByteChange : Obligations.CrcDetectsAnySingleByteChange := by
  intro x k b old present differs same
  obtain ⟨inRange, rfl⟩ := List.getElem?_eq_some_iff.mp present
  have changed : x.set k b = x.take k ++ b :: x.drop (k + 1) := List.set_eq_take_append_cons_drop.trans (if_pos inRange)
  have original : x = x.take k ++ x[k] :: x.drop (k + 1) := by rw [List.getElem_cons_drop, List.take_append_drop]
  rw [changed] at same
  conv at same => rhs; rw [original]
  rw [crcOf, crcOf, crcFold_append, crcFold_append, crcFold_cons, crcFold_cons] at same
  exact differs (crcStep_injective_right _ (crcFold_injective_left _ same))

end Sys2Proof.Proofs.Checksum
end

section
/-! The arrival of bytes: a sub-operation is its byte in every state (R90, log entry 7), and a chunk is its bytes in
order (R65). -/

namespace Sys2Proof.Proofs.Arrivals

open Machine HeaderRows MessageIdleRows

/-! The sub-operations of the Frame Engine whose row is not a header row. -/

theorem exec_feRxIdleStart (b : Byte) (s : State) : exec (.feRxIdleStart b) s = .next (feReceive b s) := by
  refine ite_eq_right_iff.mpr fun ⟨idle, start⟩ => ?_
  rw [start, feReceive_idle_start idle]

theorem exec_feRxIdleOther (b : Byte) (s : State) : exec (.feRxIdleOther b) s = .next (feReceive b s) :=
  ite_eq_right_iff.mpr fun ⟨idle, other⟩ => congrArg _ (feReceive_idle_other idle other).symm

theorem exec_feRxLength (b : Byte) (s : State) : exec (.feRxLength b) s = .next (feReceive b s) :=
  ite_eq_right_iff.mpr fun h => congrArg _ (feReceive_length b h).symm

theorem exec_feRxPayload (b : Byte) (s : State) : exec (.feRxPayload b) s = .next (feReceive b s) :=
  ite_eq_right_iff.mpr fun h => congrArg _ (feReceive_payload b h).symm

theorem exec_feRxCrc (b : Byte) (s : State) : exec (.feRxCrc b) s = .next (feReceive b s) :=
  ite_eq_right_iff.mpr fun h => congrArg _ (feReceive_crc b h).symm

theorem exec_feRxEnd (b : Byte) (s : State) : exec (.feRxEnd b) s = .next (feReceive b s) :=
  ite_eq_right_iff.mpr fun h => congrArg _ (feReceive_end b h).symm

/-! The sub-operations of the Message Engine. -/

/-- R184: phase RX_LENGTH. -/
theorem inLength_iff (m : MessageEngine) : m.inLength = true ↔ m.bound = true ∧ m.ts = true ∧ m.lk = false := by
  rw [MessageEngine.inLength, Bool.and_eq_true, Bool.and_eq_true, Bool.not_eq_true']

/-- R184: phase RX_PAYLOAD. -/
theorem inPayload_iff (m : MessageEngine) : m.inPayload = true ↔ m.bound = true ∧ m.ts = true ∧ m.lk = true := by
  rw [MessageEngine.inPayload, Bool.and_eq_true, Bool.and_eq_true]

theorem exec_meRxIdleStart (b : Byte) (s : State) : exec (.meRxIdleStart b) s = meReceive b s := by
  refine ite_eq_right_iff.mpr fun ⟨inIdle, start⟩ => ?_
  obtain ⟨bound, idle⟩ := (inIdle_iff s.me).mp inIdle
  rw [start, meReceive_idle_start bound idle]

theorem exec_meRxIdleAck (b : Byte) (s : State) : exec (.meRxIdleAck b) s = meReceive b s := by
  refine ite_eq_right_iff.mpr fun ⟨inIdle, notStart, ack⟩ => ?_
  obtain ⟨bound, idle⟩ := (inIdle_iff s.me).mp inIdle
  rw [ack] at notStart ⊢
  exact (meReceive_idle_ack bound idle notStart).symm

theorem exec_meRxLength (b : Byte) (s : State) : exec (.meRxLength b) s = meReceive b s := by
  refine ite_eq_right_iff.mpr fun inLength => ?_
  obtain ⟨bound, started, unknown⟩ := (inLength_iff s.me).mp inLength
  exact (meReceive_length b bound started unknown).symm

theorem exec_meRxPayload (b : Byte) (s : State) : exec (.meRxPayload b) s = meReceive b s := by
  refine ite_eq_right_iff.mpr fun inPayload => ?_
  obtain ⟨bound, started, known⟩ := (inPayload_iff s.me).mp inPayload
  exact (meReceive_payload b bound started known).symm

/-! Chunks. -/

theorem feReceiveAll_append (x y : Bytes) (s : State) :
    feReceiveAll (x ++ y) s = feReceiveAll y (feReceiveAll x s) := by
  induction x generalizing s with
  | nil => rfl
  | cons b x ih => exact ih (feReceive b s)

theorem meReceiveAll_append (x y : Bytes) (s : State) :
    meReceiveAll (x ++ y) s = andThen (meReceiveAll x s) (meReceiveAll y) := by
  induction x generalizing s with
  | nil => rfl
  | cons b x ih =>
    calc meReceiveAll (b :: x ++ y) s
      _ = andThen (meReceive b s) (meReceiveAll (x ++ y)) := rfl
      _ = andThen (meReceive b s) (fun t => andThen (meReceiveAll x t) (meReceiveAll y)) := by rw [funext ih]
      _ = andThen (meReceiveAll (b :: x) s) (meReceiveAll y) := (andThen_assoc _ _ _).symm

theorem meReceiveAll_append_of_next {x : Bytes} {s t : State} (h : meReceiveAll x s = .next t) (y : Bytes) :
    meReceiveAll (x ++ y) s = meReceiveAll y t := by
  rw [meReceiveAll_append, h, andThen_next]

theorem meReceiveAll_cons_of_next {b : Byte} {s t : State} (h : meReceive b s = .next t) (x : Bytes) :
    meReceiveAll (b :: x) s = meReceiveAll x t := by
  rw [meReceiveAll, h, andThen_next]

theorem meReceiveAll_singleton (b : Byte) (s : State) : meReceiveAll [b] s = meReceive b s :=
  exec_meRxChunk_singleton b s

/-- Settles O27: each sub-operation's own row is the row its guard makes the state select. -/
theorem arrivingByteIsHandledByTheSelectedRow : Obligations.ArrivingByteIsHandledByTheSelectedRow := by
  intro s b
  have feByte : exec (.feRxByte b) s = .next (feReceive b s) := rfl
  have meByte : exec (.meRxByte b) s = meReceive b s := rfl
  constructor
  · simp [feByte, exec_feRxIdleStart, exec_feRxIdleOther, exec_feRxLength, exec_feRxNumber, exec_feRxPort,
      exec_feRxControl, exec_feRxPayload, exec_feRxCrc, exec_feRxEnd]
  · simp [meByte, exec_meRxIdleStart, exec_meRxIdleAck, exec_meRxIdleOther, exec_meRxLength, exec_meRxPayload]

/-- Settles O29: a chunk is received by recursion on its bytes. -/
theorem chunkIsItsBytesInOrder : Obligations.ChunkIsItsBytesInOrder := by
  refine ⟨fun _ _ => rfl, fun _ => ⟨rfl, rfl⟩, fun s t b x => ⟨fun received => ?_, fun received => ?_⟩⟩
  · cases received
    rfl
  · exact meReceiveAll_cons_of_next received x

/-- Settles O30: receiving a concatenation is receiving its parts in turn, for either engine. -/
theorem chunkBoundariesAreNotObservable : Obligations.ChunkBoundariesAreNotObservable := by
  refine fun s t x y => ⟨fun received => ?_, fun received => meReceiveAll_append_of_next received y⟩
  cases received
  exact congrArg _ (feReceiveAll_append x y s)

end Sys2Proof.Proofs.Arrivals
end

section
/-! The rows of the byte-fed function that are not header rows (R146 to R148, R152, R154, R156), by every way their byte
arrives. -/

namespace Sys2Proof.Proofs.FrameRows

open Machine Claims HeaderRows Arrivals

theorem fePayload_last {s : State} (b : Byte) (h : s.fe.payRem = 1) :
    fePayload b s = s.withFe { s.fe with payload := s.fe.payload ++ [b], payRem := 0, state := .crc } := by
  simp [fePayload, h]

theorem fePayload_more {s : State} (b : Byte) (h : s.fe.payRem ≠ 1) :
    fePayload b s = s.withFe { s.fe with payload := s.fe.payload ++ [b], payRem := s.fe.payRem - 1 } := by
  have : s.fe.payRem - 1 ≠ 0 := fun zero => h (by bv_omega)
  rw [fePayload, if_neg this]

theorem feCrc_first {s : State} (b : Byte) (h : s.fe.crcRem = 2) :
    feCrc b s = s.withFe { s.fe with crc := shiftInU16 s.fe.crc b, crcRem := 1 } := by
  simp [feCrc, h]

theorem feCrc_second {s : State} (b : Byte) (h : s.fe.crcRem = 1) :
    feCrc b s = s.withFe { s.fe with crc := shiftInU16 s.fe.crc b, crcRem := 0, state := .endByte } := by
  simp [feCrc, h]

theorem shiftInU16_eq_ofNat (acc : U16) (b : Byte) :
    shiftInU16 acc b = BitVec.ofNat 16 (acc.toNat % 256 * 256 + b.toNat) := by
  rw [← shiftInU16_toNat, BitVec.ofNat_toNat, BitVec.setWidth_eq]

/-- The engine at rest with new effects: what the END byte leaves (R158). -/
def rested (s : State) (es : List Effect) : State := { s with fe := feResting s.fe.reg, trace := s.trace ++ es }

theorem feReject_eq_rested (s : State) (k : Control) :
    s.feReject k = rested s ((replyBytes s.cfg s.fe.num s.fe.port (wireCode s.cfg k)).map .feTx) := rfl

theorem feFinish_eq_rested (s : State) : s.feFinish = rested s [] := by
  rw [rested, List.append_nil]
  rfl

/-! The END policy by its branches, for any frame. -/

section EndPolicy

variable {c : Config} {r : Registry} {f : Frame} {h : HandlerId}

theorem endEffects_unregistered (free : r.slot f.port = none) (crcOk endOk : Bool) :
    endEffects c r f crcOk endOk = (replyBytes c f.number f.port c.ctrlPortNotConnect).map .feTx := by
  simp only [endEffects, free]

theorem endEffects_crcFailed (taken : r.slot f.port = some h) (endOk : Bool) :
    endEffects c r f false endOk = (replyBytes c f.number f.port c.ctrlCrcFailed).map .feTx := by
  simp only [endEffects, taken]

theorem endEffects_wrongEnd (taken : r.slot f.port = some h) :
    endEffects c r f true false = (replyBytes c f.number f.port c.ctrlWrongEnd).map .feTx := by
  simp only [endEffects, taken]

theorem endEffects_delivered (taken : r.slot f.port = some h) (control : f.control = c.ctrlTransmission) :
    endEffects c r f true true
      = (replyBytes c f.number f.port c.ctrlSuccess).map .feTx ++ [.feDeliver h f] := by
  simp only [endEffects, taken, if_pos control]

theorem endEffects_absorbed (taken : r.slot f.port ≠ none) (control : f.control ≠ c.ctrlTransmission) :
    endEffects c r f true true = [] := by
  obtain ⟨h, taken⟩ := Option.ne_none_iff_exists'.mp taken
  simp only [endEffects, taken, if_neg control]

end EndPolicy

/-- R156, R158, R162: the END byte leaves the engine at rest, with the effects of the END policy on the accumulated
frame. -/
theorem feEnd_eq_rested (b : Byte) (s : State) :
    feEnd b s = rested s (endEffects s.cfg s.fe.reg s.fe.frame (decide (crcOf s.fe.payload = s.fe.crc))
      (decide (b = s.cfg.frameEnd))) := by
  rcases feEnd_cases b s with ⟨free, e⟩ | ⟨h, taken, ⟨crc, e⟩ | ⟨crc, last, e⟩ | ⟨crc, last, ctrl, e⟩
      | ⟨crc, last, ctrl, e⟩⟩
  · rw [e, feReject_eq_rested, endEffects_unregistered free]
    rfl
  · rw [e, feReject_eq_rested, decide_eq_false crc, endEffects_crcFailed taken]
    rfl
  · rw [e, feReject_eq_rested, decide_eq_true crc, decide_eq_false last, endEffects_wrongEnd taken]
    rfl
  · rw [e, decide_eq_true crc, decide_eq_true last, endEffects_delivered taken ctrl, rested, ← List.append_assoc]
    rfl
  · rw [e, feFinish_eq_rested, decide_eq_true crc, decide_eq_true last,
      endEffects_absorbed (taken ▸ Option.some_ne_none h) ctrl]

/-- Settles O22: in IDLE the byte alone selects the row. -/
theorem idleRowsTestTheStartMarker : Obligations.IdleRowsTestTheStartMarker := by
  refine fun s b idle => ⟨fun start => ?_, fun other => ?_⟩
  · subst start
    exact exec_eq_of_feReceive (exec_feRxIdleStart _ s) (feReceive_idle_start idle)
  · exact exec_eq_of_feReceive (exec_feRxIdleOther b s) (feReceive_idle_other idle other)

/-- Settles O24: both rows run in their state, and only the last payload byte leaves PAYLOAD. -/
theorem lengthAndPayloadRowsCount : Obligations.LengthAndPayloadRowsCount := by
  refine fun s b => ⟨fun length => ?_, fun payload i mem => ⟨fun one => ?_, fun more => ?_⟩⟩
  · exact exec_eq_of_feReceive (exec_feRxLength b s) (feReceive_length b length)
  · exact exec_eq_of_feReceive (exec_feRxPayload b s) ((feReceive_payload b payload).trans (fePayload_last b one)) i mem
  · have notOne : s.fe.payRem ≠ 1 := fun one => by simp [one] at more
    have counted : BitVec.ofNat 8 (s.fe.payRem.toNat - 1) = s.fe.payRem - 1 := by bv_omega
    rw [counted]
    exact exec_eq_of_feReceive (exec_feRxPayload b s) ((feReceive_payload b payload).trans (fePayload_more b notOne))
      i mem

/-- Settles O25: both CRC bytes are shifted in, and the second leads to END. -/
theorem crcRowShiftsInItsByte : Obligations.CrcRowShiftsInItsByte := by
  intro s b crc i mem
  rw [← shiftInU16_eq_ofNat]
  refine ⟨fun two => ?_, fun one => ?_⟩
  · exact exec_eq_of_feReceive (exec_feRxCrc b s) ((feReceive_crc b crc).trans (feCrc_first b two)) i mem
  · exact exec_eq_of_feReceive (exec_feRxCrc b s) ((feReceive_crc b crc).trans (feCrc_second b one)) i mem

/-- Settles O26: the END byte runs the END policy on the accumulator, whose branches are those of `endEffects`. -/
theorem endPolicyIsFirstMatchWins : Obligations.EndPolicyIsFirstMatchWins := by
  intro s b ended i mem
  have run : exec i s = .next (rested s (endEffects s.cfg s.fe.reg s.fe.frame (decide (crcOf s.fe.payload = s.fe.crc))
      (decide (b = s.cfg.frameEnd)))) :=
    exec_eq_of_feReceive (exec_feRxEnd b s) ((feReceive_end b ended).trans (feEnd_eq_rested b s)) i mem
  refine ⟨fun free => ?_, fun h taken => ⟨fun crc => ?_, fun crc last => ?_, fun crc last control => ?_,
    fun crc last control => ?_⟩⟩ <;>
    change exec i s = _
  · rw [run, endEffects_unregistered free, List.append_nil]
    rfl
  · rw [run, decide_eq_false crc, endEffects_crcFailed taken, List.append_nil]
    rfl
  · rw [run, decide_eq_true crc, decide_eq_false last, endEffects_wrongEnd taken, List.append_nil]
    rfl
  · rw [run, decide_eq_true crc, decide_eq_true last, endEffects_delivered taken control]
    rfl
  · rw [run, decide_eq_true crc, decide_eq_true last, endEffects_absorbed (taken ▸ Option.some_ne_none h) control,
      ← feFinish_eq_rested]
    rfl

/-- Settles O28: only the END row has effects, and no row writes the registry. -/
theorem onlyTheEndRowHasEffects : Obligations.OnlyTheEndRowHasEffects := by
  intro s b
  obtain ⟨-, -, -, -, registry⟩ := feReceive_frame b s
  exact ⟨feReceive b s, rfl, registry, feReceive_trace_of_ne b⟩

end Sys2Proof.Proofs.FrameRows
end

section
/-! Whole frames: fed to an engine in IDLE, a sequence in the form of R80 leaves it at rest with the effects of the END
policy on the frame it carries. -/

namespace Sys2Proof.Proofs.WholeFrames

open Machine Claims Serializers FrameImages HeaderRows Arrivals FrameRows

/-- The accumulator in state CRC after header and payload, with the CRC bytes still to come. -/
def collected (r : Registry) (n number port code : Byte) (payload : Bytes) : FrameEngine :=
  { feResting r with state := .crc, len := n, num := number, port := port, ctrl := code, payload := payload }

/-- The accumulator in state END. -/
def complete (r : Registry) (n number port code : Byte) (payload : Bytes) (hi lo : Byte) : FrameEngine :=
  { collected r n number port code payload with state := .endByte, crc := deserializeU16 hi lo, crcRem := 0 }

/-- R146 to R151 in order: the five header bytes. -/
theorem feReceiveAll_header {s : State} (idle : s.fe.state = .idle) (n number port code : Byte) :
    feReceiveAll [s.cfg.frameStart, n, number, port, code] s = s.withFe
      { feResting s.fe.reg with
        state := if n = 0 then .crc else .payload
        len := n, num := number, port := port, ctrl := code, payRem := n } := by
  rw [feReceiveAll_cons, feReceive_idle_start idle]
  rfl

/-- R152 for all payload bytes still to come. -/
theorem feReceiveAll_payload {x : Bytes} {s : State} (state : s.fe.state = .payload) (nonempty : x ≠ [])
    (counted : s.fe.payRem.toNat = x.length) :
    feReceiveAll x s = s.withFe { s.fe with payload := s.fe.payload ++ x, payRem := 0, state := .crc } := by
  induction x generalizing s with
  | nil => exact absurd rfl nonempty
  | cons b x ih =>
    rw [feReceiveAll_cons, feReceive_payload b state]
    rw [List.length_cons] at counted
    cases x with
    | nil => exact fePayload_last b (BitVec.eq_of_toNat_eq counted)
    | cons b' x =>
      rw [List.length_cons] at counted
      have more : s.fe.payRem ≠ 1 := fun one => by simp [one] at counted
      rw [fePayload_more b more, ih]
      · simp only [State.withFe_fe, List.append_assoc, List.cons_append, List.nil_append]
        rfl
      · exact state
      · exact List.cons_ne_nil b' x
      · rw [State.withFe_fe, List.length_cons]
        bv_omega

theorem feReceiveAll_header_payload {s : State} (idle : s.fe.state = .idle) {n : Byte} {payload : Bytes}
    (counted : payload.length = n.toNat) (number port code : Byte) :
    feReceiveAll ([s.cfg.frameStart, n, number, port, code] ++ payload) s
      = s.withFe (collected s.fe.reg n number port code payload) := by
  rw [feReceiveAll_append, feReceiveAll_header idle]
  cases payload with
  | nil =>
    have zero : n = 0 := BitVec.eq_of_toNat_eq counted.symm
    subst zero
    rfl
  | cons b x =>
    have nonzero : n ≠ 0 := fun zero => by simp [zero] at counted
    rw [if_neg nonzero, feReceiveAll_payload rfl (List.cons_ne_nil b x) counted.symm]
    rfl

/-- R154: the two CRC bytes are read as `DES_U16` reads them. -/
theorem feReceiveAll_crc (s : State) (n number port code : Byte) (payload : Bytes) (hi lo : Byte) :
    feReceiveAll [hi, lo] (s.withFe (collected s.fe.reg n number port code payload))
      = s.withFe (complete s.fe.reg n number port code payload hi lo) := by
  have crc : shiftInU16 (shiftInU16 0 hi) lo = deserializeU16 hi lo := by
    apply BitVec.eq_of_toNat_eq
    have first : (shiftInU16 0 hi).toNat = hi.toNat := by rw [shiftInU16_toNat]; exact Nat.zero_add _
    rw [shiftInU16_toNat, first, Nat.mod_eq_of_lt hi.isLt, deserializeU16_toNat]
  rw [feReceiveAll_cons, feReceive_crc hi rfl, feCrc_first hi rfl, feReceiveAll_cons, feReceive_crc lo rfl,
    feCrc_second lo rfl, complete, ← crc]
  rfl

/-- R124, R166: the engine sees what `FRAME_DECODE` sees. -/
theorem feReceiveAll_rawImage {s : State} (idle : s.fe.state = .idle) {n : Byte} {payload : Bytes}
    (counted : payload.length = n.toNat) (number port code hi lo last : Byte) :
    feReceiveAll (rawImage s.cfg n number port code payload hi lo last) s
      = rested s (endEffects s.cfg s.fe.reg (rawFrame n number port code payload hi lo)
          (decide (crcOf payload = deserializeU16 hi lo)) (decide (last = s.cfg.frameEnd))) := by
  have parts : rawImage s.cfg n number port code payload hi lo last
      = [s.cfg.frameStart, n, number, port, code] ++ payload ++ [hi, lo] ++ [last] := by
    simp only [rawImage, List.append_assoc, List.cons_append, List.nil_append]
  rw [parts, feReceiveAll_append, feReceiveAll_append, feReceiveAll_header_payload idle counted, feReceiveAll_crc]
  exact feEnd_eq_rested last _

/-- An image of R80 with any CRC and any last byte. -/
theorem exec_feRxChunk_imageBody {s : State} (idle : s.fe.state = .idle) (number port code : Byte) {payload : Bytes}
    (fits : payload.length ≤ 255) (crc : U16) (last : Byte) :
    exec (.feRxChunk (imageBody s.cfg number port code payload crc ++ [last])) s
      = .next (rested s (endEffects s.cfg s.fe.reg (receivedFrame number port code payload crc)
          (decide (crcOf payload = crc)) (decide (last = s.cfg.frameEnd)))) := by
  have received := feReceiveAll_rawImage idle (toNat_length fits).symm number port code
    (BitVec.ofNat 8 (crc.toNat / 256)) (BitVec.ofNat 8 crc.toNat) last
  rw [rawFrame, deserializeU16_serializeU16, ← imageBody_eq_rawImage] at received
  exact congrArg _ received

/-- A frame row is the reception of the wire image with its member's code (R80, R100, log entry 5). -/
theorem receiveFrame_eq {payload : Bytes} (fits : payload.length ≤ 255) (number port : Byte) (k : Control) (s : State) :
    receiveFrame number port k payload s
      = exec (.feRxChunk (wireImage s.cfg number port (wireCode s.cfg k) payload)) s := by
  rw [receiveFrame, if_pos ((payloadFits_iff payload).mpr fits), frameImage_eq_wireImage]
  rfl

/-- A frame row in IDLE: both checks pass, and the END policy decides. -/
theorem receiveFrame_of_idle {s : State} (idle : s.fe.state = .idle) {payload : Bytes} (fits : payload.length ≤ 255)
    (number port : Byte) (k : Control) :
    receiveFrame number port k payload s = .next (rested s (endEffects s.cfg s.fe.reg
      (receivedFrame number port (wireCode s.cfg k) payload (crcOf payload)) true true)) := by
  rw [receiveFrame_eq fits, wireImage, exec_feRxChunk_imageBody idle number port _ fits, decide_eq_true rfl,
    decide_eq_true rfl]

/-- Within R6 (a) no other member has the code of Transmission. -/
theorem wireCode_ne_ctrlTransmission {c : Config} (distinct : c.ControlsDistinct) {k : Control}
    (other : k ≠ .transmission) : wireCode c k ≠ c.ctrlTransmission := by
  intro same
  have := controlOfCode_wireCode distinct k
  rw [same, ← wireCode, controlOfCode_wireCode distinct] at this
  exact other (Option.some.inj this).symm

/-- Settles O21: the frame is sent as its wire image. -/
theorem sendTransmitsTheWireImage : Obligations.SendTransmitsTheWireImage := by
  intro s number port k code payload member fits
  have sent : exec (.feSend number port k payload) s = .next (s.feTransmit (frameImage s.cfg number port k payload)) :=
    if_pos ((payloadFits_iff payload).mpr fits)
  rw [sent, frameImage_eq_wireImage, wireCode_of_mem_controlCodes member]
  rfl

/-- Settles O31: each reply row emits the image of R86 with its code. -/
theorem replyRowsTransmitEightBytes : Obligations.ReplyRowsTransmitEightBytes := by
  intro s number port r mem
  simp only [List.mem_cons, List.not_mem_nil, or_false] at mem
  rcases mem with rfl | rfl | rfl | rfl <;> rfl

/-- Settles O32: a frame row receives the wire image of its member. -/
theorem frameRowsAreReceivedImages : Obligations.FrameRowsAreReceivedImages := by
  intro s number port payload fits r mem
  have row : ∃ k, exec r.1 s = receiveFrame number port k payload s ∧ r.2 = wireCode s.cfg k := by
    simp only [List.mem_cons, List.not_mem_nil, or_false] at mem
    rcases mem with rfl | rfl | rfl | rfl | rfl <;> exact ⟨_, rfl, rfl⟩
  obtain ⟨k, run, code⟩ := row
  rw [run, code, receiveFrame_eq fits]
  exact ⟨rfl, _, rfl⟩

/-- Settles O33: the END policy on a valid Transmission frame, with and without a handler. -/
theorem transmissionFrameIsDeliveredOrRefused : Obligations.TransmissionFrameIsDeliveredOrRefused := by
  intro s number port payload idle fits
  have run : exec (.frameTransmission number port payload) s = _ :=
    receiveFrame_of_idle idle fits number port .transmission
  rw [run]
  refine ⟨fun h taken => ?_, fun free => ?_⟩
  · rw [endEffects_delivered taken rfl, rested, ← List.append_assoc]
    rfl
  · rw [endEffects_unregistered free]
    rfl

/-- Settles O34: the END policy on a valid frame of another member, with and without a handler. -/
theorem otherFramesAreAbsorbedOrRefused : Obligations.OtherFramesAreAbsorbedOrRefused := by
  rintro s number port payload idle fits ⟨distinct, -⟩ i mem
  have row : ∃ k, k ≠ .transmission ∧ exec i s = receiveFrame number port k payload s := by
    simp only [List.mem_cons, List.not_mem_nil, or_false] at mem
    rcases mem with rfl | rfl | rfl | rfl <;> exact ⟨_, by decide, rfl⟩
  obtain ⟨k, other, run⟩ := row
  rw [run, receiveFrame_of_idle idle fits]
  refine ⟨fun taken => ?_, fun free => ?_⟩
  · rw [endEffects_absorbed taken (wireCode_ne_ctrlTransmission distinct other), rested, List.append_nil]
  · rw [endEffects_unregistered free]
    rfl

/-- Settles O35: a sequence that decodes is in the form of R80, whose reception runs the END policy on the frame and the
flags that `FRAME_DECODE` answers. -/
theorem frameEngineAgreesWithFrameDecode : Obligations.FrameEngineAgreesWithFrameDecode := by
  intro s w f crcOk endOk idle decodes
  have decoded : frameOfImage s.cfg w = .decoded f crcOk endOk := by
    have answered : exec (.frameDecode w) s = .next (s.answer (.frame (frameOfImage s.cfg w))) := rfl
    have ret := congrArg State.ret (Host.Outcome.next.inj (answered.symm.trans decodes))
    exact CodecResult.frame.inj (Option.some.inj ret)
  obtain ⟨n, number, port, code, payload, hi, lo, last, rfl, counted, rfl, rfl, rfl⟩ :=
    eq_rawImage_of_frameOfImage decoded
  exact congrArg _ (feReceiveAll_rawImage idle counted number port code hi lo last)

/-- Settles O36: the CRC received is that of another payload (R115 (d)), and the CRC is tested before the END byte. -/
theorem singleByteCorruptionIsRejected : Obligations.SingleByteCorruptionIsRejected := by
  intro s number port code payload h k b old last idle taken fits present differs
  have mismatch : crcOf (payload.set k b) ≠ crcOf payload :=
    Checksum.crcDetectsAnySingleByteChange payload k b old present differs
  rw [exec_feRxChunk_imageBody idle number port code (by rwa [List.length_set]), decide_eq_false mismatch,
    endEffects_crcFailed taken]
  rfl

/-- Settles O37: with a valid CRC the END byte decides, and it is not looked at again. -/
theorem wrongEndByteIsRejected : Obligations.WrongEndByteIsRejected := by
  intro s number port code payload h last idle taken fits wrong
  rw [exec_feRxChunk_imageBody idle number port code fits, decide_eq_true rfl, decide_eq_false wrong,
    endEffects_wrongEnd taken]
  rfl

end Sys2Proof.Proofs.WholeFrames
end

section
/-! The invariant of the Frame Engine under received bytes (R27), and how many bytes it is from IDLE (R163, R290). -/

namespace Sys2Proof.Proofs.FrameSequencing

open Machine Claims HeaderRows Arrivals FrameRows

/-- R27 with the freshness of the CRC register, state by state: what of the invariant speaks of the accumulator. -/
def Sequenced (f : FrameEngine) : Prop :=
  match f.state with
  | .idle | .length => f.Cleared
  | .number | .port | .control => f.payload = [] ∧ f.payRem = f.len ∧ f.crc = 0 ∧ f.crcRem = 2
  | .payload =>
    1 ≤ f.payRem.toNat ∧ f.payRem.toNat ≤ f.len.toNat ∧ f.payload.length = f.len.toNat - f.payRem.toNat
      ∧ f.crc = 0 ∧ f.crcRem = 2
  | .crc =>
    f.payRem = 0 ∧ f.payload.length = f.len.toNat
      ∧ (f.crcRem = 2 ∧ f.crc = 0 ∨ f.crcRem = 1 ∧ f.crc.extractLsb' 8 8 = 0)
  | .endByte => f.payRem = 0 ∧ f.payload.length = f.len.toNat ∧ f.crcRem = 0

theorem sequenced_iff (f : FrameEngine) : Sequenced f ↔ f.StateInvariant ∧ f.CrcFresh := by
  cases h : f.state
  case crc =>
    simp only [Sequenced, h, FrameEngine.StateInvariant, FrameEngine.CrcFresh]
    constructor
    · rintro ⟨zero, count, ⟨two, fresh⟩ | ⟨one, high⟩⟩
      · simp [zero, count, two, fresh]
      · simp [zero, count, one, high]
    · rintro ⟨⟨-, -, -, -, crc, -⟩, fresh⟩
      obtain ⟨zero, count, two | one, high⟩ := crc trivial
      · exact ⟨zero, count, .inl ⟨two, fresh (.inr ⟨trivial, two⟩)⟩⟩
      · exact ⟨zero, count, .inr ⟨one, high⟩⟩
  case payload =>
    simp [Sequenced, h, FrameEngine.StateInvariant, FrameEngine.CrcFresh]
    tauto
  all_goals simp [Sequenced, h, FrameEngine.StateInvariant, FrameEngine.CrcFresh]

theorem sequenced_resting (r : Registry) : Sequenced (feResting r) :=
  ⟨rfl, rfl, rfl, rfl, rfl, rfl, rfl, rfl⟩

theorem sequenced_feIdleStart (s : State) : Sequenced (feIdleStart s).fe :=
  ⟨rfl, rfl, rfl, rfl, rfl, rfl, rfl, rfl⟩

theorem shiftInU16_zero_high (b : Byte) : (shiftInU16 0 b).extractLsb' 8 8 = 0 := by
  apply BitVec.eq_of_toNat_eq
  have value : (shiftInU16 0 b).toNat = b.toNat := by rw [shiftInU16_toNat]; exact Nat.zero_add _
  rw [BitVec.extractLsb'_toNat, value, Nat.shiftRight_eq_div_pow, Nat.div_eq_of_lt b.isLt]
  rfl

/-- A received byte keeps the counters and the accumulator in step with the state. -/
theorem sequenced_feReceive {s : State} (b : Byte) (sequenced : Sequenced s.fe) : Sequenced (feReceive b s).fe := by
  have now := sequenced
  unfold Sequenced at now
  cases h : s.fe.state <;> rw [h] at now <;> dsimp only at now
  case idle =>
    by_cases start : b = s.cfg.frameStart
    · rw [start, feReceive_idle_start h]
      exact sequenced_feIdleStart s
    · rw [feReceive_idle_other h start]
      exact sequenced
  case length =>
    rw [feReceive_length b h]
    obtain ⟨-, -, -, -, noPayload, noCrc, -, two⟩ := now
    exact ⟨noPayload, rfl, noCrc, two⟩
  case number =>
    rw [feReceive_number b h]
    exact now
  case port =>
    rw [feReceive_port b h]
    exact now
  case control =>
    rw [feReceive_control b h]
    obtain ⟨noPayload, counter, noCrc, two⟩ := now
    by_cases zero : s.fe.len = 0
    · rw [feControl_of_len_eq_zero b zero]
      refine ⟨counter.trans zero, ?_, .inl ⟨two, noCrc⟩⟩
      simp [noPayload, zero]
    · rw [feControl_of_len_ne_zero b zero]
      have positive : 1 ≤ s.fe.len.toNat := by bv_omega
      refine ⟨?_, ?_, ?_, noCrc, two⟩ <;> simp [counter, noPayload, positive]
  case payload =>
    rw [feReceive_payload b h]
    obtain ⟨positive, bounded, count, noCrc, two⟩ := now
    by_cases one : s.fe.payRem = 1
    · rw [fePayload_last b one]
      refine ⟨rfl, ?_, .inl ⟨two, noCrc⟩⟩
      simp [one] at bounded
      simp [count, one, bounded]
    · rw [fePayload_more b one]
      have notOne : s.fe.payRem.toNat ≠ 1 := fun e => one (BitVec.eq_of_toNat_eq e)
      have counted : (s.fe.payRem - 1).toNat = s.fe.payRem.toNat - 1 := by bv_omega
      simp only [Sequenced, h, State.withFe_fe, List.length_append, List.length_singleton, counted]
      exact ⟨by omega, by omega, by omega, noCrc, two⟩
  case crc =>
    rw [feReceive_crc b h]
    obtain ⟨zero, count, ⟨two, fresh⟩ | ⟨one, -⟩⟩ := now
    · rw [feCrc_first b two, fresh]
      have high : (shiftInU16 0#16 b).extractLsb' 8 8 = 0#8 := shiftInU16_zero_high b
      simp [Sequenced, h, zero, count, high]
    · rw [feCrc_second b one]
      exact ⟨zero, count, rfl⟩
  case endByte =>
    rw [feReceive_end b h, feEnd_fe]
    exact sequenced_resting s.fe.reg

theorem sequenced_feReceiveAll {x : Bytes} {s : State} (sequenced : Sequenced s.fe) :
    Sequenced (feReceiveAll x s).fe := by
  induction x generalizing s with
  | nil => exact sequenced
  | cons b x ih => exact ih (sequenced_feReceive b sequenced)

/-- How many bytes the engine is from IDLE (R163); in LENGTH, at most how many. -/
def bytesLeft (f : FrameEngine) : Nat :=
  match f.state with
  | .idle => 0
  | .length => 262
  | .number => 6 + f.len.toNat
  | .port => 5 + f.len.toNat
  | .control => 4 + f.len.toNat
  | .payload => 3 + f.payRem.toNat
  | .crc => 1 + f.crcRem.toNat
  | .endByte => 1

theorem bytesLeft_eq_zero_iff (f : FrameEngine) : bytesLeft f = 0 ↔ f.state = .idle := by
  unfold bytesLeft
  split <;> simp [*]

/-- After the length byte the engine is in the middle of a frame, and every byte is one step to its end. -/
theorem bytesLeft_feReceive {s : State} (b : Byte) (sequenced : Sequenced s.fe) (notIdle : s.fe.state ≠ .idle)
    (notLength : s.fe.state ≠ .length) :
    bytesLeft (feReceive b s).fe + 1 = bytesLeft s.fe ∧ (feReceive b s).fe.state ≠ .length := by
  unfold Sequenced at sequenced
  cases h : s.fe.state <;> rw [h] at sequenced <;> dsimp only at sequenced
  case idle => exact absurd h notIdle
  case length => exact absurd h notLength
  case number =>
    rw [feReceive_number b h]
    simp only [bytesLeft, feNumber, State.withFe_fe, h]
    exact ⟨by omega, FeState.noConfusion⟩
  case port =>
    rw [feReceive_port b h]
    simp only [bytesLeft, fePort, State.withFe_fe, h]
    exact ⟨by omega, FeState.noConfusion⟩
  case control =>
    rw [feReceive_control b h]
    obtain ⟨-, counter, -, two⟩ := sequenced
    by_cases zero : s.fe.len = 0
    · rw [feControl_of_len_eq_zero b zero]
      simp [bytesLeft, h, two, zero]
    · rw [feControl_of_len_ne_zero b zero]
      simp only [bytesLeft, State.withFe_fe, h, counter]
      exact ⟨by omega, FeState.noConfusion⟩
  case payload =>
    rw [feReceive_payload b h]
    obtain ⟨positive, -, -, -, two⟩ := sequenced
    by_cases one : s.fe.payRem = 1
    · rw [fePayload_last b one]
      simp [bytesLeft, h, one, two]
    · rw [fePayload_more b one]
      have counted : (s.fe.payRem - 1).toNat = s.fe.payRem.toNat - 1 := by bv_omega
      simp only [bytesLeft, h, State.withFe_fe, counted]
      exact ⟨by omega, FeState.noConfusion⟩
  case crc =>
    rw [feReceive_crc b h]
    obtain ⟨-, -, ⟨two, -⟩ | ⟨one, -⟩⟩ := sequenced
    · rw [feCrc_first b two]
      simp [bytesLeft, h, two]
    · rw [feCrc_second b one]
      simp [bytesLeft, h, one]
  case endByte =>
    rw [feReceive_end b h, feEnd_fe]
    simp [bytesLeft, h]

/-- Bytes up to the end of the frame are counted one by one. -/
theorem bytesLeft_feReceiveAll {x : Bytes} {s : State} (sequenced : Sequenced s.fe) (notLength : s.fe.state ≠ .length)
    (within : x.length ≤ bytesLeft s.fe) : bytesLeft (feReceiveAll x s).fe + x.length = bytesLeft s.fe := by
  induction x generalizing s with
  | nil => rfl
  | cons b x ih =>
    rw [List.length_cons] at within ⊢
    have notIdle : s.fe.state ≠ .idle := by
      rw [Ne, ← bytesLeft_eq_zero_iff]
      omega
    obtain ⟨step, notLength⟩ := bytesLeft_feReceive b sequenced notIdle notLength
    have rest := ih (sequenced_feReceive b sequenced) notLength (by omega)
    rw [feReceiveAll_cons]
    omega

/-- Outside IDLE every byte brings the engine nearer to it. -/
theorem bytesLeft_feReceive_lt {s : State} (b : Byte) (sequenced : Sequenced s.fe) (notIdle : s.fe.state ≠ .idle) :
    bytesLeft (feReceive b s).fe < bytesLeft s.fe := by
  by_cases length : s.fe.state = .length
  · rw [feReceive_length b length]
    have := b.isLt
    have left : bytesLeft (feLength b s).fe = 6 + b.toNat := rfl
    have most : bytesLeft s.fe = 262 := by simp only [bytesLeft, length]
    omega
  · have := (bytesLeft_feReceive b sequenced notIdle length).1
    omega

theorem exists_prefix_to_idle {x : Bytes} {s : State} (sequenced : Sequenced s.fe)
    (enough : bytesLeft s.fe ≤ x.length) :
    ∃ k ≤ bytesLeft s.fe, (feReceiveAll (x.take k) s).fe.state = .idle := by
  induction x generalizing s with
  | nil => exact ⟨0, Nat.zero_le _, (bytesLeft_eq_zero_iff _).mp (Nat.le_zero.mp enough)⟩
  | cons b x ih =>
    by_cases idle : s.fe.state = .idle
    · exact ⟨0, Nat.zero_le _, idle⟩
    · have nearer := bytesLeft_feReceive_lt b sequenced idle
      rw [List.length_cons] at enough
      obtain ⟨k, bound, reached⟩ := ih (sequenced_feReceive b sequenced) (by omega)
      exact ⟨k + 1, by omega, reached⟩

theorem bytesLeft_le (f : FrameEngine) : bytesLeft f ≤ 262 := by
  have := f.len.isLt
  have := f.payRem.isLt
  have := f.crcRem.isLt
  unfold bytesLeft
  split <;> omega

/-- Settles O38: the start marker and the length byte put the engine `6 + N` bytes from IDLE, and each further byte is
one step. -/
theorem startMarkerCommitsToOneFrame : Obligations.StartMarkerCommitsToOneFrame := by
  intro s n x idle length
  have sequenced := sequenced_feReceive n (sequenced_feIdleStart s)
  have left : bytesLeft (feReceive n (feIdleStart s)).fe = 6 + n.toNat := rfl
  have notLength : (feReceive n (feIdleStart s)).fe.state ≠ .length := FeState.noConfusion
  have afterStart : ∀ y, feReceiveAll (s.cfg.frameStart :: y) s = feReceiveAll y (feIdleStart s) := fun y => by
    rw [feReceiveAll_cons, feReceive_idle_start idle]
  refine ⟨⟨_, rfl, ?_⟩, fun k before => ⟨_, rfl, ?_⟩⟩
  · have counted := bytesLeft_feReceiveAll (x := x) sequenced notLength (by omega)
    rw [afterStart, feReceiveAll_cons, ← bytesLeft_eq_zero_iff]
    omega
  · rw [afterStart]
    cases k with
    | zero => exact FeState.noConfusion
    | succ k =>
      have taken : (x.take k).length = k := by
        rw [List.length_take]
        omega
      have counted := bytesLeft_feReceiveAll (x := x.take k) sequenced notLength (by omega)
      rw [List.take_succ_cons, feReceiveAll_cons, Ne, ← bytesLeft_eq_zero_iff]
      omega

/-- Settles O39: an engine of the invariant is at most 262 bytes from IDLE, and outside IDLE every byte brings it
nearer. -/
theorem frameEngineReturnsToIdle : Obligations.FrameEngineReturnsToIdle := by
  rintro s x ⟨⟨invariant, fresh, -⟩, -⟩ enough
  have bound := bytesLeft_le s.fe
  obtain ⟨k, within, reached⟩ := exists_prefix_to_idle ((sequenced_iff s.fe).mpr ⟨invariant, fresh⟩)
    (bound.trans enough)
  exact ⟨k, within.trans bound, _, rfl, reached⟩

end Sys2Proof.Proofs.FrameSequencing
end

section
/-! The Message Engine's commands and the rows of its table (R181 to R190), by every way their byte arrives. -/

namespace Sys2Proof.Proofs.MessageRows

open Machine Claims Codec MessageIdleRows Arrivals

/-! `ME_SEND` (R183). -/

section Send

variable {s : State} {m : Bytes}

theorem messageFits_iff (m : Bytes) : messageFits m = true ↔ m.length < 2 ^ 64 := decide_eq_true_iff

/-- An inbound or an outbound handshake is in progress. -/
theorem busy_iff (e : MessageEngine) : e.busy = true ↔ e.ts = true ∨ e.txq ≠ [] := by
  rw [MessageEngine.busy, MessageEngine.txPending, Bool.or_eq_true, Bool.not_eq_true', List.isEmpty_eq_false_iff]

theorem exec_meSend_unbound (fits : m.length < 2 ^ 64) (unbound : s.me.bound = false) :
    exec (.meSend m) s = .next (s.meDrop .meSendUnbound) :=
  (if_pos ((messageFits_iff m).mpr fits)).trans (if_pos unbound)

theorem exec_meSend_busy (fits : m.length < 2 ^ 64) (bound : s.me.bound = true)
    (busy : s.me.ts = true ∨ s.me.txq ≠ []) :
    exec (.meSend m) s = .next (s.meDrop .meSendBusy) := by
  have notUnbound : ¬ s.me.bound = false := by simp [bound]
  exact (if_pos ((messageFits_iff m).mpr fits)).trans ((if_neg notUnbound).trans (if_pos ((busy_iff s.me).mpr busy)))

theorem exec_meSend_free (fits : m.length < 2 ^ 64) (bound : s.me.bound = true) (idle : s.me.ts = false)
    (empty : s.me.txq = []) :
    exec (.meSend m) s = .next ((s.meTransmit [s.cfg.meStart]).withMe { s.me with txq := [m] }) := by
  have notUnbound : ¬ s.me.bound = false := by simp [bound]
  have notBusy : ¬ s.me.busy = true := by simp [busy_iff, idle, empty]
  refine (if_pos ((messageFits_iff m).mpr fits)).trans ((if_neg notUnbound).trans ((if_neg notBusy).trans ?_))
  rw [empty, List.nil_append]

end Send

theorem meReceiveAll_unbound {s : State} (unbound : s.me.bound = false) (x : Bytes) : meReceiveAll x s = .next s := by
  induction x with
  | nil => rfl
  | cons b x ih => rw [meReceiveAll_cons_of_next (meReceive_unbound b unbound), ih]

/-- A length is sent modulo 2^64, which changes none of its eight bytes. -/
theorem serializeU64_ofNat (n : Nat) : serializeU64 (BitVec.ofNat 64 n) = lengthBytes n := by
  rw [serializeU64_eq_lengthBytes]
  simp only [lengthBytes, List.cons.injEq, and_true, BitVec.toNat_ofNat]
  refine ⟨?_, ?_, ?_, ?_, ?_, ?_, ?_, ?_⟩ <;>
    · apply BitVec.eq_of_toNat_eq
      rw [BitVec.toNat_ofNat, BitVec.toNat_ofNat]
      omega

theorem meIdleAck_queued {s : State} {m : Bytes} {q : List Bytes} (queued : s.me.txq = m :: q) :
    meIdleAck s = (s.withMe { s.me with txq := q }).meTransmit (lengthBytes m.length ++ m) := by
  rw [← serializeU64_ofNat]
  simp only [meIdleAck, queued]

theorem meIdleAck_empty {s : State} (empty : s.me.txq = []) : meIdleAck s = s.meDrop .meSpuriousAck := by
  simp only [meIdleAck, empty]

/-! The capacity of the receive buffer (D18). -/

theorem capExceeded_eq_true_iff (c : Config) (v : U64) :
    capExceeded c v = true ↔ ∃ cap, c.meRxbufCap = some cap ∧ cap < v.toNat := by
  cases h : c.meRxbufCap <;> simp [capExceeded, h]

theorem capExceeded_eq_false_iff (c : Config) (v : U64) :
    capExceeded c v = false ↔ ∀ cap, c.meRxbufCap = some cap → v.toNat ≤ cap := by
  cases h : c.meRxbufCap <;> simp [capExceeded, h]

theorem capExceeded_zero (c : Config) : capExceeded c 0 = false :=
  (capExceeded_eq_false_iff c 0).mpr fun _ _ => Nat.zero_le _

/-! The length row by its outcomes (R188). -/

section Length

variable {s : State} (b : Byte)

theorem meLength_more (more : s.me.cnt + 1 ≠ 8) :
    meLength b s = .next (s.withMe { s.me with len := shiftInU64 s.me.len b, cnt := s.me.cnt + 1 }) := by
  rcases meLength_cases b s with ⟨-, e⟩ | ⟨last, -⟩ | ⟨last, -⟩ | ⟨last, -⟩
  · exact e
  all_goals exact absurd last more

theorem meLength_capped (last : s.me.cnt + 1 = 8) (above : capExceeded s.cfg (shiftInU64 s.me.len b) = true) :
    meLength b s = .refused (.rxbufCapExceeded (shiftInU64 s.me.len b)) := by
  rcases meLength_cases b s with ⟨more, -⟩ | ⟨-, -, e⟩ | ⟨-, within, -⟩ | ⟨-, within, -⟩
  · exact absurd last more
  · exact e
  all_goals exact absurd above (by simp [within])

theorem meLength_empty (last : s.me.cnt + 1 = 8) (zero : shiftInU64 s.me.len b = 0) :
    meLength b s = .next (s.withMe { s.me with len := 0, cnt := 8, lk := true, rxbuf := [] }).meComplete := by
  rcases meLength_cases b s with ⟨more, -⟩ | ⟨-, above, -⟩ | ⟨-, -, -, e⟩ | ⟨-, -, nonzero, -⟩
  · exact absurd last more
  · rw [zero, capExceeded_zero] at above
    cases above
  · exact e
  · exact absurd zero nonzero

theorem meLength_known (last : s.me.cnt + 1 = 8) (within : capExceeded s.cfg (shiftInU64 s.me.len b) = false)
    (nonzero : shiftInU64 s.me.len b ≠ 0) :
    meLength b s
      = .next (s.withMe { s.me with len := shiftInU64 s.me.len b, cnt := 8, lk := true, rxbuf := [] }) := by
  rcases meLength_cases b s with ⟨more, -⟩ | ⟨-, above, -⟩ | ⟨-, -, zero, -⟩ | ⟨-, -, -, e⟩
  · exact absurd last more
  · rw [within] at above
    cases above
  · exact absurd zero nonzero
  · exact e

end Length

/-- Settles O43: both commands write the binding's register values at once. -/
theorem bindAndUnbindWriteTheBinding : Obligations.BindAndUnbindWriteTheBinding := fun _ => ⟨rfl, rfl⟩

/-- Settles O44: the binding is tested first, then the handshake. -/
theorem sendIsGuardedByTheHandshake : Obligations.SendIsGuardedByTheHandshake :=
  fun _ _ fits => ⟨exec_meSend_unbound fits, exec_meSend_busy fits, exec_meSend_free fits⟩

/-- Settles O45: an unbound engine ignores a byte, and so a chunk. -/
theorem unboundEngineIgnoresBytes : Obligations.UnboundEngineIgnoresBytes := by
  intro s b x v unbound i mem
  have byte (b : Byte) : meReceive b s = .next s := meReceive_unbound b unbound
  have chunk (x : Bytes) : meReceiveAll x s = .next s := meReceiveAll_unbound unbound x
  simp only [List.mem_cons, List.not_mem_nil, or_false] at mem
  rcases mem with rfl | rfl | rfl | rfl | rfl | rfl | rfl | rfl | rfl | rfl | rfl | rfl
  · exact byte b
  · exact chunk x
  · exact (exec_meRxIdleStart b s).trans (byte b)
  · exact (exec_meRxIdleAck b s).trans (byte b)
  · exact (exec_meRxIdleOther b s).trans (byte b)
  · exact (exec_meRxLength b s).trans (byte b)
  · exact (exec_meRxPayload b s).trans (byte b)
  · exact byte s.cfg.meStart
  · exact byte s.cfg.meAck
  · exact byte s.cfg.meNack
  · exact chunk (serializeU64 v)
  · exact chunk x

/-- A wire byte that is received with outcome `r` has that outcome by whichever operation it arrives. -/
theorem exec_eq_of_wireByte {row wire : Instr} {b : Byte} {s : State} {r : Result}
    (arrival : exec row s = meReceive b s) (wireArrival : exec wire s = meReceive b s) (received : meReceive b s = r) :
    ∀ i ∈ [row, .meRxByte b, .meRxChunk [b], wire], exec i s = r := by
  have byByte : exec (.meRxByte b) s = meReceive b s := rfl
  simp [arrival, wireArrival, byByte, exec_meRxChunk_singleton, received]

/-- Settles O46: in phase IDLE the Start byte runs the row of R185. -/
theorem startByteIsAcknowledged : Obligations.StartByteIsAcknowledged :=
  fun s bound idle => exec_eq_of_wireByte (exec_meRxIdleStart _ s) rfl (meReceive_idle_start bound idle)

/-- Settles O47: in phase IDLE the Ack byte runs the row of R186, which looks at the FIFO. -/
theorem ackByteReleasesTheMessage : Obligations.AckByteReleasesTheMessage := by
  intro s bound idle notStart i mem
  have run : exec i s = .next (meIdleAck s) :=
    exec_eq_of_wireByte (exec_meRxIdleAck _ s) rfl (meReceive_idle_ack bound idle notStart) i mem
  rw [run]
  refine ⟨fun m q queued => ?_, fun empty => ?_⟩
  · rw [meIdleAck_queued queued]
    rfl
  · rw [meIdleAck_empty empty]
    rfl

/-- Settles O49: the four outcomes of the length row, by the count and the value. -/
theorem lengthRowAccumulatesEightBytes : Obligations.LengthRowAccumulatesEightBytes := by
  intro s b v bound started unknown value i mem
  have run : exec i s = meLength b s :=
    exec_eq_of_meReceive (exec_meRxLength b s) (meReceive_length b bound started unknown) i mem
  have shifted : shiftInU64 s.me.len b = v := BitVec.eq_of_toNat_eq ((shiftInU64_toNat _ _).trans value.symm)
  have eighth (seven : s.me.cnt = 7) : s.me.cnt + 1 = 8 := by rw [seven]; rfl
  rw [run]
  subst shifted
  refine ⟨fun few => ?_, fun seven nonzero cap => ?_, fun seven zero => ?_, fun seven cap => ?_⟩
  · have more : s.me.cnt + 1 ≠ 8 := fun e => by bv_omega
    have counted : BitVec.ofNat 4 (s.me.cnt.toNat + 1) = s.me.cnt + 1 := by bv_omega
    rw [meLength_more b more, counted]
    rfl
  · rw [meLength_known b (eighth seven) ((capExceeded_eq_false_iff _ _).mpr cap) nonzero]
    rfl
  · rw [meLength_empty b (eighth seven) zero]
    rfl
  · rw [meLength_capped b (eighth seven) ((capExceeded_eq_true_iff _ _).mpr cap)]

/-- Settles O50: the two outcomes of the payload row. -/
theorem payloadRowFillsAndDelivers : Obligations.PayloadRowFillsAndDelivers := by
  intro s b bound started known i mem
  have run : exec i s = .next (mePayload b s) :=
    exec_eq_of_meReceive (exec_meRxPayload b s) (meReceive_payload b bound started known) i mem
  rw [run]
  refine ⟨fun more => ?_, fun last => ?_⟩
  · rw [mePayload_more b more]
    rfl
  · rw [mePayload_last b last]
    rfl

end Sys2Proof.Proofs.MessageRows
end

section
/-! Whole fields and whole transfers of the Message Engine (R87 to R89, R192, R275). -/

namespace Sys2Proof.Proofs.MessageTransfers

open Machine Claims Codec Serializers MessageIdleRows Arrivals MessageRows

/-- The engine back in phase IDLE after a delivery (R190), its binding and its FIFO kept. -/
def delivered (s : State) (m : Bytes) : State :=
  { s with me := { s.me with ts := false, lk := false, cnt := 0, len := 0, rxbuf := [] }
           trace := s.trace ++ [.meDeliver m] }

/-- The length bytes before the eighth are accumulated and counted. -/
theorem meReceiveAll_length_part {x : Bytes} {s : State} (bound : s.me.bound = true) (started : s.me.ts = true)
    (unknown : s.me.lk = false) (room : s.me.cnt.toNat + x.length ≤ 7) :
    meReceiveAll x s = .next
      (s.withMe { s.me with len := x.foldl shiftInU64 s.me.len, cnt := s.me.cnt + BitVec.ofNat 4 x.length }) := by
  induction x generalizing s with
  | nil => simp [meReceiveAll, State.withMe]
  | cons b x ih =>
    rw [List.length_cons] at room
    have more : s.me.cnt + 1 ≠ 8 := fun e => by bv_omega
    have received := (meReceive_length b bound started unknown).trans (meLength_more b more)
    have counted : s.me.cnt + BitVec.ofNat 4 (x.length + 1) = s.me.cnt + 1 + BitVec.ofNat 4 x.length := by bv_omega
    rw [meReceiveAll_cons_of_next received, ih, List.length_cons, counted]
    · rfl
    · exact bound
    · exact started
    · exact unknown
    · rw [State.withMe_me]
      bv_omega

/-- Phase RX_LENGTH with seven of the eight bytes of a length received. -/
def beforeEighth (s : State) (v : U64) : State :=
  s.withMe { s.me with len := deserializeU64 ((serializeU64 v).take 7), cnt := 7 }

theorem shiftInU64_beforeEighth (s : State) (v : U64) : shiftInU64 (beforeEighth s v).me.len (v.extractLsb' 0 8) = v :=
  deserializeU64_serializeU64 v

theorem meReceiveAll_serializeU64 {s : State} (bound : s.me.bound = true) (started : s.me.ts = true)
    (unknown : s.me.lk = false) (count : s.me.cnt = 0) (zero : s.me.len = 0) (v : U64) :
    meReceiveAll (serializeU64 v) s = meLength (v.extractLsb' 0 8) (beforeEighth s v) := by
  have part := meReceiveAll_length_part bound started unknown (x := (serializeU64 v).take 7) (by rw [count]; rfl)
  rw [count, zero] at part
  have rest := meReceiveAll_append_of_next part [v.extractLsb' 0 8]
  rw [meReceiveAll_singleton] at rest
  exact rest.trans (meReceive_length _ bound started unknown)

/-- Settles O51: the eighth byte finds the other seven accumulated, and completes the value they were written from. -/
theorem lengthFieldIsReceivedWhole : Obligations.LengthFieldIsReceivedWhole := by
  intro s v bound started unknown count zero cap i mem
  have run : exec i s = meReceiveAll (serializeU64 v) s := by
    simp only [List.mem_cons, List.not_mem_nil, or_false] at mem
    rcases mem with rfl | rfl
    · rfl
    · rw [serializeU64_eq_lengthBytes]
      rfl
  have value := shiftInU64_beforeEighth s v
  have within : capExceeded s.cfg v = false := (capExceeded_eq_false_iff _ _).mpr cap
  rw [run, meReceiveAll_serializeU64 bound started unknown count zero]
  refine ⟨fun nonzero => ?_, fun empty => ?_⟩
  · rw [meLength_known (s := beforeEighth s v) _ rfl (value.symm ▸ within) (value.symm ▸ nonzero), value]
    rfl
  · rw [meLength_empty (s := beforeEighth s v) _ rfl (value.trans empty)]
    rfl

/-- Payload bytes short of the declared length are collected. -/
theorem meReceiveAll_payload_part {x : Bytes} {s : State} (bound : s.me.bound = true) (started : s.me.ts = true)
    (known : s.me.lk = true) (short : s.me.rxbuf.length + x.length < s.me.len.toNat) :
    meReceiveAll x s = .next (s.withMe { s.me with rxbuf := s.me.rxbuf ++ x }) := by
  induction x generalizing s with
  | nil => simp [meReceiveAll, State.withMe]
  | cons b x ih =>
    rw [List.length_cons] at short
    have received := (meReceive_payload b bound started known).trans
      (congrArg _ (mePayload_more b (s := s) (by omega)))
    rw [meReceiveAll_cons_of_next received, ih]
    · simp only [State.withMe_me, List.append_assoc, List.cons_append, List.nil_append]
      rfl
    · exact bound
    · exact started
    · exact known
    · simp only [State.withMe_me, List.length_append, List.length_singleton]
      omega

/-- The payload bytes that fill the declared length deliver the message. -/
theorem meReceiveAll_payload_field {x : Bytes} {s : State} (bound : s.me.bound = true) (started : s.me.ts = true)
    (known : s.me.lk = true) (nonempty : x ≠ []) (fills : s.me.rxbuf.length + x.length = s.me.len.toNat) :
    meReceiveAll x s = .next (delivered s (s.me.rxbuf ++ x)) := by
  obtain ⟨y, b, rfl⟩ := List.eq_nil_or_concat x |>.resolve_left nonempty
  rw [List.concat_eq_append] at fills ⊢
  rw [List.length_append, List.length_singleton] at fills
  have part := meReceiveAll_payload_part bound started known (x := y) (by omega)
  rw [meReceiveAll_append_of_next part, meReceiveAll_singleton, meReceive_payload b, mePayload_last b]
  · simp only [delivered, State.withMe_me, List.append_assoc]
    rfl
  · simp only [State.withMe_me, List.length_append]
    omega
  · exact bound
  · exact started
  · exact known

/-- Settles O52: bytes short of the declared length are collected, and the byte that fills it delivers. -/
theorem payloadFieldIsDeliveredWhole : Obligations.PayloadFieldIsDeliveredWhole := by
  intro s x bound started known missing i mem
  have run : exec i s = meReceiveAll x s := by
    simp only [List.mem_cons, List.not_mem_nil, or_false] at mem
    rcases mem with rfl | rfl <;> rfl
  rw [run]
  refine ⟨fun fills => ?_, meReceiveAll_payload_part bound started known⟩
  have nonempty : x ≠ [] := fun nil => by
    rw [nil, List.length_nil] at fills
    omega
  exact meReceiveAll_payload_field bound started known nonempty fills

/-- A message as it is sent, length first, arriving at the start of phase RX_LENGTH with no buffer cap (R192). -/
theorem meReceiveAll_message {s : State} (bound : s.me.bound = true) (started : s.me.ts = true)
    (unknown : s.me.lk = false) (count : s.me.cnt = 0) (zero : s.me.len = 0) (noCap : s.cfg.meRxbufCap = none)
    {m : Bytes} (fits : m.length < 2 ^ 64) : meReceiveAll (lengthBytes m.length ++ m) s = .next (delivered s m) := by
  have value : (BitVec.ofNat 64 m.length).toNat = m.length := by rw [BitVec.toNat_ofNat, Nat.mod_eq_of_lt fits]
  obtain ⟨known, empty⟩ := lengthFieldIsReceivedWhole s (BitVec.ofNat 64 m.length) bound started unknown count zero
    (fun cap h => by rw [noCap] at h; cases h) (.meRxChunk (lengthBytes (BitVec.ofNat 64 m.length).toNat)) (by simp)
  rw [value] at known empty
  cases m with
  | nil => exact meReceiveAll_append_of_next (empty rfl) []
  | cons b x =>
    have nonzero : BitVec.ofNat 64 (b :: x).length ≠ 0 := fun h => by
      rw [h] at value
      cases value
    have field := meReceiveAll_append_of_next (known nonzero) (b :: x)
    rw [field, meReceiveAll_payload_field]
    · rfl
    · exact bound
    · exact started
    · rfl
    · exact List.cons_ne_nil b x
    · rw [value]
      exact Nat.zero_add _

/-- Settles O53: Start, Ack, then the message as it is sent, each received in the phase the one before leads to. -/
theorem messageTransferDeliversTheMessage : Obligations.MessageTransferDeliversTheMessage := by
  rintro a b m sameCfg ⟨-, startAck, -⟩ noCap fits restA restB
  have noCapB : b.cfg.meRxbufCap = none := sameCfg ▸ noCap
  have boundA : a.me.bound = true := congrArg MessageEngine.bound restA
  have idleA : a.me.ts = false := congrArg MessageEngine.ts restA
  have boundB : b.me.bound = true := congrArg MessageEngine.bound restB
  have idleB : b.me.ts = false := congrArg MessageEngine.ts restB
  have sent := exec_meSend_free fits boundA idleA (congrArg MessageEngine.txq restA)
  have acked : exec (.meRxChunk [a.cfg.meStart]) b = .next (meIdleStart b) := by
    rw [sameCfg, exec_meRxChunk_singleton, meReceive_idle_start boundB idleB]
  have released : exec (.meRxChunk [a.cfg.meAck]) ((a.meTransmit [a.cfg.meStart]).withMe { a.me with txq := [m] })
      = .next (meIdleAck ((a.meTransmit [a.cfg.meStart]).withMe { a.me with txq := [m] })) := by
    rw [exec_meRxChunk_singleton]
    exact meReceive_idle_ack boundA idleA startAck.symm
  rw [meIdleAck_queued rfl] at released
  have received : exec (.meRxChunk (lengthBytes m.length ++ m)) (meIdleStart b) = .next (delivered (meIdleStart b) m) :=
    meReceiveAll_message (s := meIdleStart b) boundB rfl rfl rfl rfl noCapB fits
  refine ⟨_, _, _, _, sent, rfl, acked, by rw [sameCfg]; rfl, released, rfl, received, rfl, ?_, ?_, rfl, rfl⟩
  · simp [restA, meResting]
  · simp [delivered, meIdleStart, restB, meResting]

theorem shiftInU64_zero (b : Byte) : shiftInU64 0 b = b.setWidth 64 := by
  apply BitVec.eq_of_toNat_eq
  have value : (shiftInU64 0 b).toNat = b.toNat := by rw [shiftInU64_toNat]; exact Nat.zero_add _
  have := b.isLt
  rw [value, BitVec.toNat_setWidth, Nat.mod_eq_of_lt (by omega)]

/-- Settles O54: the crossing Start makes the engine a receiver, whose first length byte is the Ack, and a receiver is
busy. -/
theorem startCollisionParksTheEngine : Obligations.StartCollisionParksTheEngine := by
  intro s m x resting fits
  have bound : s.me.bound = true := congrArg MessageEngine.bound resting
  have idle : s.me.ts = false := congrArg MessageEngine.ts resting
  have first : (meIdleStart s).me.cnt + 1 ≠ 8 := fun e => by cases e
  have parked : exec (.meRxChunk [s.cfg.meStart, s.cfg.meAck]) s = meReceive s.cfg.meAck (meIdleStart s) := by
    refine (meReceiveAll_cons_of_next (meReceive_idle_start bound idle) _).trans ?_
    exact meReceiveAll_singleton s.cfg.meAck (meIdleStart s)
  rw [meReceive_length (s := meIdleStart s) _ bound rfl rfl, meLength_more _ first] at parked
  refine ⟨_, parked, ?_, rfl, exec_meSend_busy fits bound (.inl rfl)⟩
  rw [← shiftInU64_zero]
  simp [meIdleStart, resting, meResting]

end Sys2Proof.Proofs.MessageTransfers
end

section
/-! Every operation as one of nine actions. The 44 rows of the operation set differ in how they are written; what they
do is one of these, on the bytes or the value that the operands give in the configuration. -/

namespace Sys2Proof.Proofs.Actions

open Machine Claims HeaderRows MessageIdleRows Arrivals MessageRows

/-- What an operation does. -/
inductive Action where
  /-- hands a codec result to the caller -/
  | answer (r : CodecResult)
  /-- bytes arrive at the Frame Engine -/
  | feReceive (x : Bytes)
  /-- bytes leave on `fe_tx` -/
  | feTransmit (x : Bytes)
  /-- `FE_CONNECT` -/
  | feConnect (p : Byte) (h : HandlerId)
  /-- bytes arrive at the Message Engine -/
  | meReceive (x : Bytes)
  /-- `ME_BIND` -/
  | meBind
  /-- `ME_UNBIND` -/
  | meUnbind
  /-- `ME_SEND` -/
  | meSend (m : Bytes)
  /-- `RESET` -/
  | reset

/-- The action on a state. -/
def Action.run : Action → State → Result
  | .answer r, s => .next (s.answer r)
  | .feReceive x, s => .next (feReceiveAll x s)
  | .feTransmit x, s => .next (s.feTransmit x)
  | .feConnect p h, s => execFeConnect p h s
  | .meReceive x, s => meReceiveAll x s
  | .meBind, s => execMeBind s
  | .meUnbind, s => execMeUnbind s
  | .meSend m, s => execMeSend m s
  | .reset, s => execReset s

/-- The action of an operation, in a configuration. -/
def action (c : Config) : Instr → Action
  | .frameTransmission n p x => .feReceive (frameImage c n p .transmission x)
  | .frameSuccess n p x => .feReceive (frameImage c n p .success x)
  | .frameCrcFail n p x => .feReceive (frameImage c n p .crcChecksumFailed x)
  | .frameWrongEnd n p x => .feReceive (frameImage c n p .wrongEndByte x)
  | .framePortNc n p x => .feReceive (frameImage c n p .portNotConnect x)
  | .replySuccess n p => .feTransmit (replyImage c n p .success)
  | .replyCrcFail n p => .feTransmit (replyImage c n p .crcChecksumFailed)
  | .replyWrongEnd n p => .feTransmit (replyImage c n p .wrongEndByte)
  | .replyPortNc n p => .feTransmit (replyImage c n p .portNotConnect)
  | .msgStart => .meReceive [c.meStart]
  | .msgAck => .meReceive [c.meAck]
  | .msgNack => .meReceive [c.meNack]
  | .msgLength v => .meReceive (serializeU64 v)
  | .msgPayload x | .meRxChunk x => .meReceive x
  | .feRxIdleStart b | .feRxIdleOther b | .feRxLength b | .feRxNumber b | .feRxPort b | .feRxControl b
  | .feRxPayload b | .feRxCrc b | .feRxEnd b | .feRxByte b => .feReceive [b]
  | .meRxIdleStart b | .meRxIdleAck b | .meRxIdleOther b | .meRxLength b | .meRxPayload b
  | .meRxByte b => .meReceive [b]
  | .crc16Step v b => .answer (.word (crcStep v b))
  | .crc16 x => .answer (.word (crcOf x))
  | .serU16 v => .answer (.bytes (serializeU16 v))
  | .serU64 v => .answer (.bytes (serializeU64 v))
  | .frameEncode n p k x => .answer (.bytes (frameImage c n p k x))
  | .frameDecode w => .answer (.frame (frameOfImage c w))
  | .feConnect p h => .feConnect p h
  | .feRxChunk x => .feReceive x
  | .feSend n p k x => .feTransmit (frameImage c n p k x)
  | .meBind => .meBind
  | .meUnbind => .meUnbind
  | .meSend m => .meSend m
  | .reset => .reset

/-- Every well-formed operation does its action. -/
theorem exec_eq_run {i : Instr} (wellFormed : i.wellFormed = true) (s : State) : exec i s = (action s.cfg i).run s := by
  cases i
  case frameTransmission | frameSuccess | frameCrcFail | frameWrongEnd | framePortNc | frameEncode | feSend =>
    exact if_pos wellFormed
  case feRxIdleStart b => exact exec_feRxIdleStart b s
  case feRxIdleOther b => exact exec_feRxIdleOther b s
  case feRxLength b => exact exec_feRxLength b s
  case feRxNumber b => exact exec_feRxNumber b s
  case feRxPort b => exact exec_feRxPort b s
  case feRxControl b => exact exec_feRxControl b s
  case feRxPayload b => exact exec_feRxPayload b s
  case feRxCrc b => exact exec_feRxCrc b s
  case feRxEnd b => exact exec_feRxEnd b s
  case meRxIdleStart b => exact (exec_meRxIdleStart b s).trans (meReceiveAll_singleton b s).symm
  case meRxIdleAck b => exact (exec_meRxIdleAck b s).trans (meReceiveAll_singleton b s).symm
  case meRxIdleOther b => exact (exec_meRxIdleOther b s).trans (meReceiveAll_singleton b s).symm
  case meRxLength b => exact (exec_meRxLength b s).trans (meReceiveAll_singleton b s).symm
  case meRxPayload b => exact (exec_meRxPayload b s).trans (meReceiveAll_singleton b s).symm
  case meRxByte b => exact (meReceiveAll_singleton b s).symm
  case msgStart => exact (meReceiveAll_singleton s.cfg.meStart s).symm
  case msgAck => exact (meReceiveAll_singleton s.cfg.meAck s).symm
  case msgNack => exact (meReceiveAll_singleton s.cfg.meNack s).symm
  all_goals rfl

/-- An operand outside the bounds of R93 is refused (R121, R183, log entry 10). -/
theorem exec_refused {i : Instr} (illFormed : i.wellFormed = false) (s : State) : ∃ r, exec i s = .refused r := by
  cases i
  case frameTransmission | frameSuccess | frameCrcFail | frameWrongEnd | framePortNc | frameEncode | feSend | meSend =>
    exact ⟨_, if_neg (Bool.not_eq_true _ ▸ illFormed)⟩
  all_goals cases illFormed

theorem wellFormed_of_next {i : Instr} {s t : State} (h : exec i s = .next t) : i.wellFormed = true := by
  cases wellFormed : i.wellFormed with
  | true => rfl
  | false =>
    obtain ⟨r, refused⟩ := exec_refused wellFormed s
    rw [h] at refused
    cases refused

/-- An operation with a next state has done its action. -/
theorem run_of_exec {i : Instr} {s t : State} (h : exec i s = .next t) : (action s.cfg i).run s = .next t := by
  rw [← exec_eq_run (wellFormed_of_next h), h]

/-- The actions on the Frame Engine. -/
def Action.onFrameEngine : Action → Bool
  | .feReceive _ | .feTransmit _ | .feConnect _ _ => true
  | _ => false

/-- The actions on the Message Engine. -/
def Action.onMessageEngine : Action → Bool
  | .meReceive _ | .meBind | .meUnbind | .meSend _ => true
  | _ => false

/-- The actions of the codec. -/
def Action.onCodec : Action → Bool
  | .answer _ => true
  | _ => false

/-- The actions by which no byte is received and nothing is torn down. -/
def Action.isLocal : Action → Bool
  | .answer _ | .feTransmit _ | .feConnect _ _ | .meBind | .meSend _ => true
  | _ => false

theorem action_onFrameEngine (c : Config) (i : Instr) : (action c i).onFrameEngine = onFrameEngine i := by
  cases i <;> rfl

theorem action_onMessageEngine (c : Config) (i : Instr) : (action c i).onMessageEngine = onMessageEngine i := by
  cases i <;> rfl

theorem action_onCodec (c : Config) (i : Instr) : (action c i).onCodec = onCodec i := by
  cases i <;> rfl

theorem action_isLocal (c : Config) (i : Instr) : (action c i).isLocal = isLocalCommand i := by
  cases i <;> rfl

theorem eq_reset_of_action {c : Config} {i : Instr} (h : action c i = .reset) : i = .reset := by
  cases i <;> cases h
  rfl

theorem eq_meSend_of_action {c : Config} {i : Instr} {m : Bytes} (h : action c i = .meSend m) : i = .meSend m := by
  cases i <;> cases h
  rfl

/-- `FE_CONNECT` (R141): a free slot is filled, an occupied one is reported. -/
theorem execFeConnect_free {s : State} {p : Byte} (free : s.fe.reg.slot p = none) (h : HandlerId) :
    execFeConnect p h s = .next (s.withFe { s.fe with reg := s.fe.reg.fill p h }) := by
  simp only [execFeConnect, free]

theorem execFeConnect_taken {s : State} {p : Byte} {k : HandlerId} (taken : s.fe.reg.slot p = some k) (h : HandlerId) :
    execFeConnect p h s = .next (s.feDrop .feDupConnect) := by
  simp only [execFeConnect, taken]

/-- The outcomes of `ME_SEND` (R183) with a next state. -/
theorem execMeSend_cases {m : Bytes} {s t : State} (h : execMeSend m s = .next t) :
    m.length < 2 ^ 64
    ∧ ((s.me.bound = false ∧ t = s.meDrop .meSendUnbound)
      ∨ (s.me.bound = true ∧ (s.me.ts = true ∨ s.me.txq ≠ []) ∧ t = s.meDrop .meSendBusy)
      ∨ (s.me.bound = true ∧ s.me.ts = false ∧ s.me.txq = []
          ∧ t = (s.meTransmit [s.cfg.meStart]).withMe { s.me with txq := [m] })) := by
  have fits : m.length < 2 ^ 64 := (messageFits_iff m).mp (wellFormed_of_next (i := .meSend m) h)
  refine ⟨fits, ?_⟩
  cases bound : s.me.bound with
  | false => exact .inl ⟨rfl, Host.Outcome.next.inj (h.symm.trans (exec_meSend_unbound fits bound))⟩
  | true =>
    by_cases busy : s.me.ts = true ∨ s.me.txq ≠ []
    · exact .inr (.inl ⟨rfl, busy, Host.Outcome.next.inj (h.symm.trans (exec_meSend_busy fits bound busy))⟩)
    · rw [not_or, Bool.not_eq_true, not_not] at busy
      obtain ⟨idle, empty⟩ := busy
      exact .inr (.inr ⟨rfl, idle, empty,
        Host.Outcome.next.inj (h.symm.trans (exec_meSend_free fits bound idle empty))⟩)

/-- Settles O20: the registry's own laws of reading a filled slot. -/
theorem connectIsFirstWins : Obligations.ConnectIsFirstWins := by
  refine fun s p h => ⟨fun free => ?_, fun k taken => execFeConnect_taken taken h⟩
  exact ⟨_, execFeConnect_free free h, Registry.slot_fill_self _ p h,
    fun q other => Registry.slot_fill_other _ p q h other⟩

/-- R156's delivering branch, in the effects it adds. -/
theorem feEnd_delivered_trace {s : State} {h : HandlerId} (taken : s.fe.reg.slot s.fe.port = some h)
    (crc : crcOf s.fe.payload = s.fe.crc) (control : s.fe.ctrl = s.cfg.ctrlTransmission) :
    (feEnd s.cfg.frameEnd s).trace = s.trace ++ (replyBytes s.cfg s.fe.num s.fe.port s.cfg.ctrlSuccess).map .feTx
      ++ [.feDeliver h s.fe.frame] := by
  rw [FrameRows.feEnd_eq_rested, decide_eq_true crc, decide_eq_true rfl, FrameRows.endEffects_delivered taken control,
    FrameRows.rested, List.append_assoc]
  rfl

/-- Settles O42: the END byte reads the registry as it is then (R72). -/
theorem lateRegistrationReceivesTheFrame : Obligations.LateRegistrationReceivesTheFrame := by
  intro s h ended free crc control
  have taken : (s.fe.reg.fill s.fe.port h).slot s.fe.port = some h := Registry.slot_fill_self _ _ h
  exact ⟨s.withFe { s.fe with reg := s.fe.reg.fill s.fe.port h }, _, execFeConnect_free free h,
    congrArg Host.Outcome.next (feReceive_end s.cfg.frameEnd ended), feEnd_delivered_trace taken crc control⟩

/-- Settles O57: an operand out of the bounds of R93 fails the operation's own test. -/
theorem inexpressibleOperandsAreRefused : Obligations.InexpressibleOperandsAreRefused := by
  intro s number port k x
  constructor
  · intro long i mem
    have tooLong : ¬ payloadFits x = true := fun fits => by
      have := of_decide_eq_true fits
      rw [maxPayload] at this
      omega
    simp only [List.mem_cons, List.not_mem_nil, or_false] at mem
    rcases mem with rfl | rfl | rfl | rfl | rfl | rfl | rfl <;> exact if_neg tooLong
  · intro long
    have tooLong : ¬ messageFits x = true := fun fits => by
      have := of_decide_eq_true fits
      rw [messageBound] at this
      omega
    exact if_neg tooLong

end Sys2Proof.Proofs.Actions
end

section
/-! The two engines are independent (R20, R70, R235). What an action of one engine does is the same in every state with
the same configuration and the same engine: the engine's next state, and the effects added. -/

namespace Sys2Proof.Proofs.Locality

open Machine Claims FrameRows Arrivals MessageRows Actions

@[simp] theorem emit_nil (s : State) : s.emit [] = s := by
  rw [State.emit, List.append_nil]

theorem emit_emit (s : State) (es fs : List Effect) : (s.emit es).emit fs = s.emit (es ++ fs) := by
  rw [State.emit, State.emit, State.emit, List.append_assoc]

/-! The Frame Engine. -/

/-- A received byte, in every state with the same configuration and Frame Engine. -/
theorem feReceive_local (b : Byte) (s : State) :
    ∃ new, ∀ u : State, u.cfg = s.cfg → u.fe = s.fe → feReceive b u = (u.withFe (feReceive b s).fe).emit new := by
  cases state : s.fe.state
  case endByte =>
    refine ⟨endEffects s.cfg s.fe.reg s.fe.frame (decide (crcOf s.fe.payload = s.fe.crc)) (decide (b = s.cfg.frameEnd)),
      fun u cfg fe => ?_⟩
    rw [feReceive_end b state, feReceive_end b (fe ▸ state), feEnd_fe, feEnd_eq_rested, rested, ← cfg, ← fe]
    rfl
  case idle =>
    refine ⟨[], fun u cfg fe => ?_⟩
    by_cases start : b = s.cfg.frameStart
    · rw [start, feReceive_idle_start state, ← cfg, feReceive_idle_start (fe ▸ state), emit_nil, feIdleStart, fe]
      rfl
    · rw [feReceive_idle_other state start, feReceive_idle_other (fe ▸ state) (cfg ▸ start), emit_nil, ← fe]
      rfl
  all_goals
    refine ⟨[], fun u cfg fe => ?_⟩
    simp [feReceive, state, fe, feLength, feNumber, fePort, feControl, fePayload, feCrc]

theorem feReceiveAll_local (x : Bytes) (s : State) :
    ∃ new, ∀ u : State, u.cfg = s.cfg → u.fe = s.fe →
      feReceiveAll x u = (u.withFe (feReceiveAll x s).fe).emit new := by
  induction x generalizing s with
  | nil =>
    refine ⟨[], fun u _ fe => ?_⟩
    rw [emit_nil, feReceiveAll, feReceiveAll, ← fe]
    rfl
  | cons b x ih =>
    obtain ⟨first, byte⟩ := feReceive_local b s
    obtain ⟨rest, chunk⟩ := ih (feReceive b s)
    obtain ⟨cfgKept, -⟩ := feReceive_frame b s
    refine ⟨first ++ rest, fun u cfg fe => ?_⟩
    have after := chunk ((u.withFe (feReceive b s).fe).emit first) (cfg.trans cfgKept.symm) rfl
    rw [feReceiveAll_cons, feReceiveAll_cons, byte u cfg fe, after, ← emit_emit]
    rfl

/-- An action on the Frame Engine. -/
theorem run_onFrameEngine_local {a : Action} (onFe : a.onFrameEngine = true) {s t : State} (h : a.run s = .next t) :
    ∃ new, ∀ u : State, u.cfg = s.cfg → u.fe = s.fe → a.run u = .next ((u.withFe t.fe).emit new) := by
  cases a
  case feReceive x =>
    cases h
    obtain ⟨new, same⟩ := feReceiveAll_local x s
    exact ⟨new, fun u cfg fe => congrArg _ (same u cfg fe)⟩
  case feTransmit x =>
    cases h
    refine ⟨x.map .feTx, fun u _ fe => ?_⟩
    rw [State.feTransmit_fe, ← fe]
    rfl
  case feConnect p k =>
    cases slot : s.fe.reg.slot p with
    | none =>
      cases (execFeConnect_free slot k).symm.trans h
      refine ⟨[], fun u _ fe => ?_⟩
      rw [emit_nil, State.withFe_fe, ← fe]
      exact execFeConnect_free (fe ▸ slot) k
    | some k' =>
      cases (execFeConnect_taken slot k).symm.trans h
      refine ⟨[.feDiag .feDupConnect], fun u _ fe => ?_⟩
      rw [State.feDrop_fe, ← fe]
      exact execFeConnect_taken (fe ▸ slot) k
  all_goals cases onFe

/-! The Message Engine. Its effects are never deliveries of frames. -/

/-- No frame is delivered. -/
def NoFrameDelivery (es : List Effect) : Prop := ∀ h f, Effect.feDeliver h f ∉ es

theorem noFrameDelivery_append {es fs : List Effect} (h : NoFrameDelivery es) (k : NoFrameDelivery fs) :
    NoFrameDelivery (es ++ fs) :=
  fun handler frame mem => (List.mem_append.mp mem).elim (h handler frame) (k handler frame)

theorem noFrameDelivery_map_meTx (x : Bytes) : NoFrameDelivery (x.map .meTx) := by simp [NoFrameDelivery]

theorem noFrameDelivery_map_feTx (x : Bytes) : NoFrameDelivery (x.map .feTx) := by simp [NoFrameDelivery]

theorem meLength_local {b : Byte} {s t : State} (h : meLength b s = .next t) :
    ∃ new, NoFrameDelivery new ∧ ∀ u : State, u.cfg = s.cfg → u.me = s.me →
      meLength b u = .next ((u.withMe t.me).emit new) := by
  rcases meLength_cases b s with ⟨more, e⟩ | ⟨-, -, e⟩ | ⟨last, -, zero, e⟩ | ⟨last, within, nonzero, e⟩ <;>
    cases e.symm.trans h
  · refine ⟨[], by simp [NoFrameDelivery], fun u _ me => ?_⟩
    rw [meLength_more b (me ▸ more), emit_nil, me]
    rfl
  · refine ⟨[.meDeliver []], by simp [NoFrameDelivery], fun u _ me => ?_⟩
    rw [meLength_empty b (me ▸ last) (me ▸ zero), me]
    rfl
  · refine ⟨[], by simp [NoFrameDelivery], fun u cfg me => ?_⟩
    rw [meLength_known b (me ▸ last) (cfg ▸ me ▸ within) (me ▸ nonzero), emit_nil, me]
    rfl

theorem mePayload_local (b : Byte) (s : State) :
    ∃ new, NoFrameDelivery new ∧ ∀ u : State, u.me = s.me → mePayload b u = (u.withMe (mePayload b s).me).emit new := by
  by_cases last : s.me.rxbuf.length + 1 = s.me.len.toNat
  · refine ⟨[.meDeliver (s.me.rxbuf ++ [b])], by simp [NoFrameDelivery], fun u me => ?_⟩
    rw [mePayload_last b last, mePayload_last b (me ▸ last), me]
    rfl
  · refine ⟨[], by simp [NoFrameDelivery], fun u me => ?_⟩
    rw [mePayload_more b last, mePayload_more b (me ▸ last), emit_nil, me]
    rfl

theorem meIdleAck_local (s : State) :
    ∃ new, NoFrameDelivery new ∧ ∀ u : State, u.me = s.me → meIdleAck u = (u.withMe (meIdleAck s).me).emit new := by
  cases queue : s.me.txq with
  | nil =>
    refine ⟨[.meDiag .meSpuriousAck], by simp [NoFrameDelivery], fun u me => ?_⟩
    rw [meIdleAck_empty queue, meIdleAck_empty (me ▸ queue), State.meDrop_me, ← me]
    rfl
  | cons m q =>
    refine ⟨_, noFrameDelivery_map_meTx (lengthBytes m.length ++ m), fun u me => ?_⟩
    rw [meIdleAck_queued queue, meIdleAck_queued (me ▸ queue), me]
    rfl

/-- A received byte, in every state with the same configuration and Message Engine. -/
theorem meReceive_local {b : Byte} {s t : State} (h : meReceive b s = .next t) :
    ∃ new, NoFrameDelivery new ∧ ∀ u : State, u.cfg = s.cfg → u.me = s.me →
      meReceive b u = .next ((u.withMe t.me).emit new) := by
  rcases meReceive_cases b s with ⟨unbound, e⟩ | ⟨bound, idle, start, e⟩ | ⟨bound, idle, notStart, ack, e⟩
    | ⟨bound, idle, notStart, notAck, e⟩ | ⟨bound, started, unknown, e⟩ | ⟨bound, started, known, e⟩
  · cases e.symm.trans h
    refine ⟨[], by simp [NoFrameDelivery], fun u _ me => ?_⟩
    rw [meReceive_unbound b (me ▸ unbound), emit_nil, ← me]
    rfl
  · cases e.symm.trans h
    refine ⟨[.meTx s.cfg.meAck], by simp [NoFrameDelivery], fun u cfg me => ?_⟩
    rw [start, ← cfg, meReceive_idle_start (me ▸ bound) (me ▸ idle), meIdleStart, me]
    rfl
  · cases e.symm.trans h
    obtain ⟨new, noDelivery, same⟩ := meIdleAck_local s
    refine ⟨new, noDelivery, fun u cfg me => ?_⟩
    rw [ack, ← cfg, meReceive_idle_ack (me ▸ bound) (me ▸ idle) (cfg ▸ ack ▸ notStart), same u me]
  · cases e.symm.trans h
    refine ⟨[.meTx s.cfg.meNack], by simp [NoFrameDelivery], fun u cfg me => ?_⟩
    rw [meReceive_idle_other (me ▸ bound) (me ▸ idle) (cfg ▸ notStart) (cfg ▸ notAck), ← cfg, meIdleOther,
      meIdleOther, State.meReject_me, ← me]
    rfl
  · obtain ⟨new, noDelivery, same⟩ := meLength_local (e.symm.trans h)
    refine ⟨new, noDelivery, fun u cfg me => ?_⟩
    rw [meReceive_length b (me ▸ bound) (me ▸ started) (me ▸ unknown), same u cfg me]
  · cases e.symm.trans h
    obtain ⟨new, noDelivery, same⟩ := mePayload_local b s
    refine ⟨new, noDelivery, fun u _ me => ?_⟩
    rw [meReceive_payload b (me ▸ bound) (me ▸ started) (me ▸ known), same u me]

theorem meReceiveAll_local {x : Bytes} {s t : State} (h : meReceiveAll x s = .next t) :
    ∃ new, NoFrameDelivery new ∧ ∀ u : State, u.cfg = s.cfg → u.me = s.me →
      meReceiveAll x u = .next ((u.withMe t.me).emit new) := by
  induction x generalizing s with
  | nil =>
    cases h
    refine ⟨[], by simp [NoFrameDelivery], fun u _ me => ?_⟩
    rw [emit_nil, meReceiveAll, ← me]
    rfl
  | cons b x ih =>
    obtain ⟨v, received, remaining⟩ := andThen_eq_next.mp h
    obtain ⟨first, noFirst, byte⟩ := meReceive_local received
    obtain ⟨rest, noRest, chunk⟩ := ih remaining
    obtain ⟨cfgKept, -⟩ := meReceive_frame received
    refine ⟨first ++ rest, noFrameDelivery_append noFirst noRest, fun u cfg me => ?_⟩
    have after := chunk ((u.withMe v.me).emit first) (cfg.trans cfgKept.symm) rfl
    rw [meReceiveAll_cons_of_next (byte u cfg me), after, ← emit_emit]
    rfl

theorem execMeSend_local {m : Bytes} {s t : State} (h : execMeSend m s = .next t) :
    ∃ new, NoFrameDelivery new ∧ ∀ u : State, u.cfg = s.cfg → u.me = s.me →
      execMeSend m u = .next ((u.withMe t.me).emit new) := by
  obtain ⟨fits, ⟨unbound, rfl⟩ | ⟨bound, busy, rfl⟩ | ⟨bound, idle, empty, rfl⟩⟩ := execMeSend_cases h
  · refine ⟨[.meDiag .meSendUnbound], by simp [NoFrameDelivery], fun u _ me => ?_⟩
    rw [State.meDrop_me, ← me]
    exact exec_meSend_unbound fits (me ▸ unbound)
  · refine ⟨[.meDiag .meSendBusy], by simp [NoFrameDelivery], fun u _ me => ?_⟩
    rw [State.meDrop_me, ← me]
    exact exec_meSend_busy fits (me ▸ bound) (me ▸ busy)
  · refine ⟨[.meTx s.cfg.meStart], by simp [NoFrameDelivery], fun u cfg me => ?_⟩
    rw [State.withMe_me, ← me, ← cfg]
    exact exec_meSend_free fits (me ▸ bound) (me ▸ idle) (me ▸ empty)

/-- An action on the Message Engine. -/
theorem run_onMessageEngine_local {a : Action} (onMe : a.onMessageEngine = true) {s t : State}
    (h : a.run s = .next t) :
    ∃ new, NoFrameDelivery new ∧ ∀ u : State, u.cfg = s.cfg → u.me = s.me →
      a.run u = .next ((u.withMe t.me).emit new) := by
  cases a
  case meReceive x => exact meReceiveAll_local h
  case meSend m => exact execMeSend_local h
  case meBind =>
    cases h
    refine ⟨[], by simp [NoFrameDelivery], fun u _ me => ?_⟩
    rw [emit_nil, State.withMe_me, ← me]
    rfl
  case meUnbind =>
    cases h
    refine ⟨[], by simp [NoFrameDelivery], fun u _ _ => ?_⟩
    rw [emit_nil]
    rfl
  all_goals cases onMe

/-- In its own state an action on one engine leaves the rest of the machine alone. -/
theorem eq_withFe_emit_of_run {a : Action} (onFe : a.onFrameEngine = true) {s t : State} (h : a.run s = .next t) :
    ∃ new, t = (s.withFe t.fe).emit new := by
  obtain ⟨new, same⟩ := run_onFrameEngine_local onFe h
  exact ⟨new, Host.Outcome.next.inj (h.symm.trans (same s rfl rfl))⟩

theorem eq_withMe_emit_of_run {a : Action} (onMe : a.onMessageEngine = true) {s t : State} (h : a.run s = .next t) :
    ∃ new, NoFrameDelivery new ∧ t = (s.withMe t.me).emit new := by
  obtain ⟨new, noDelivery, same⟩ := run_onMessageEngine_local onMe h
  exact ⟨new, noDelivery, Host.Outcome.next.inj (h.symm.trans (same s rfl rfl))⟩

/-- What an action may write: one engine and the effects, the codec result, or (RESET) both engines. -/
theorem run_cases {a : Action} {s t : State} (h : a.run s = .next t) :
    (∃ r, a = .answer r ∧ t = s.answer r)
    ∨ (a.onFrameEngine = true ∧ ∃ new, t = (s.withFe t.fe).emit new)
    ∨ (a.onMessageEngine = true ∧ ∃ new, NoFrameDelivery new ∧ t = (s.withMe t.me).emit new)
    ∨ (a = .reset ∧ t = (s.withFe FrameEngine.initial).withMe MessageEngine.initial) := by
  cases a
  case answer r =>
    cases h
    exact .inl ⟨r, rfl, rfl⟩
  case feReceive | feTransmit | feConnect => exact .inr (.inl ⟨rfl, eq_withFe_emit_of_run rfl h⟩)
  case meReceive | meBind | meUnbind | meSend => exact .inr (.inr (.inl ⟨rfl, eq_withMe_emit_of_run rfl h⟩))
  case reset =>
    cases h
    exact .inr (.inr (.inr ⟨rfl, rfl⟩))

/-- No action is of two units. -/
theorem excludes_of_onFrameEngine {a : Action} (onFe : a.onFrameEngine = true) :
    ¬ a.onMessageEngine = true ∧ ¬ a.onCodec = true := by
  cases a <;> cases onFe <;> exact ⟨Bool.noConfusion, Bool.noConfusion⟩

theorem excludes_of_onMessageEngine {a : Action} (onMe : a.onMessageEngine = true) :
    ¬ a.onFrameEngine = true ∧ ¬ a.onCodec = true := by
  cases a <;> cases onMe <;> exact ⟨Bool.noConfusion, Bool.noConfusion⟩

/-- Settles O58: an action writes what `run_cases` says, and the engines share no action. -/
theorem eachOperationWritesItsOwnUnit : Obligations.EachOperationWritesItsOwnUnit := by
  intro i s t h
  rw [← action_onFrameEngine s.cfg, ← action_onMessageEngine s.cfg, ← action_onCodec s.cfg]
  rcases run_cases (run_of_exec h) with ⟨r, e, rfl⟩ | ⟨onFe, new, e⟩ | ⟨onMe, new, -, e⟩ | ⟨e, rfl⟩
  · rw [e]
    exact ⟨rfl, rfl, ⟨[], (List.append_nil _).symm⟩, Bool.noConfusion, Bool.noConfusion, fun _ => ⟨rfl, rfl, rfl⟩⟩
  · obtain ⟨notMe, notCodec⟩ := excludes_of_onFrameEngine onFe
    exact ⟨(congrArg State.cfg e :), (congrArg State.pending e :), ⟨new, (congrArg State.trace e :)⟩,
      fun _ => ⟨(congrArg State.me e :), (congrArg State.ret e :)⟩, fun onMe => absurd onMe notMe,
      fun onCodec => absurd onCodec notCodec⟩
  · obtain ⟨notFe, notCodec⟩ := excludes_of_onMessageEngine onMe
    exact ⟨(congrArg State.cfg e :), (congrArg State.pending e :), ⟨new, (congrArg State.trace e :)⟩,
      fun onFe => absurd onFe notFe, fun _ => ⟨(congrArg State.fe e :), (congrArg State.ret e :)⟩,
      fun onCodec => absurd onCodec notCodec⟩
  · rw [e]
    exact ⟨rfl, rfl, ⟨[], (List.append_nil _).symm⟩, Bool.noConfusion, Bool.noConfusion, Bool.noConfusion⟩

/-- Settles O59: the action of an operation is local to its engine. -/
theorem enginesDoNotInfluenceEachOther : Obligations.EnginesDoNotInfluenceEachOther := by
  intro i s t s' h cfg
  have runT : exec i t = (action s.cfg i).run t := cfg ▸ exec_eq_run (wellFormed_of_next h) t
  rw [runT, ← action_onFrameEngine s.cfg, ← action_onMessageEngine s.cfg]
  refine ⟨fun onFe fe => ?_, fun onMe me => ?_⟩
  · obtain ⟨new, same⟩ := run_onFrameEngine_local onFe (run_of_exec h)
    have here := congrArg State.trace (Host.Outcome.next.inj ((run_of_exec h).symm.trans (same s rfl rfl)))
    exact ⟨_, new, same t cfg.symm fe.symm, rfl, here, rfl⟩
  · obtain ⟨new, -, same⟩ := run_onMessageEngine_local onMe (run_of_exec h)
    have here := congrArg State.trace (Host.Outcome.next.inj ((run_of_exec h).symm.trans (same s rfl rfl)))
    exact ⟨_, new, same t cfg.symm me.symm, rfl, here, rfl⟩

end Sys2Proof.Proofs.Locality
end

section
/-! What every action keeps: the registry (R26), the validity of deliveries (R159), and the invariant (R27, R35). -/

namespace Sys2Proof.Proofs.Preservation

open Machine Claims FrameRows FrameSequencing Arrivals MessageRows MessageTransfers Actions Locality

/-! Deliveries (R159). -/

/-- Every delivery goes to the handler of its port, and carries a valid Transmission frame. -/
def ValidDeliveries (c : Config) (r : Registry) (new : List Effect) : Prop :=
  ∀ (h : HandlerId) (f : Frame), .feDeliver h f ∈ new →
    r.slot f.port = some h ∧ f.control = c.ctrlTransmission ∧ crcOf f.payload = f.crc
      ∧ f.payload.length = f.length.toNat

theorem validDeliveries_of_noFrameDelivery {c : Config} {r : Registry} {new : List Effect} (h : NoFrameDelivery new) :
    ValidDeliveries c r new := fun handler frame mem => absurd mem (h handler frame)

theorem validDeliveries_append {c : Config} {r : Registry} {es fs : List Effect} (h : ValidDeliveries c r es)
    (k : ValidDeliveries c r fs) : ValidDeliveries c r (es ++ fs) :=
  fun handler frame mem => (List.mem_append.mp mem).elim (h handler frame) (k handler frame)

/-- The END policy delivers the received frame alone, on the one branch that tests all there is to test. -/
theorem validDeliveries_endEffects {c : Config} {r : Registry} {f : Frame} (counted : f.payload.length = f.length.toNat)
    (endOk : Bool) : ValidDeliveries c r (endEffects c r f (decide (crcOf f.payload = f.crc)) endOk) := by
  cases slot : r.slot f.port with
  | none =>
    rw [endEffects_unregistered slot]
    exact validDeliveries_of_noFrameDelivery (noFrameDelivery_map_feTx _)
  | some h =>
    by_cases crc : crcOf f.payload = f.crc
    · rw [decide_eq_true crc]
      cases endOk with
      | false =>
        rw [endEffects_wrongEnd slot]
        exact validDeliveries_of_noFrameDelivery (noFrameDelivery_map_feTx _)
      | true =>
        by_cases control : f.control = c.ctrlTransmission
        · rw [endEffects_delivered slot control]
          refine validDeliveries_append (validDeliveries_of_noFrameDelivery (noFrameDelivery_map_feTx _)) ?_
          intro handler frame mem
          cases List.mem_singleton.mp mem
          exact ⟨slot, control, crc, counted⟩
        · rw [endEffects_absorbed (slot ▸ Option.some_ne_none h) control]
          exact fun _ _ mem => absurd mem List.not_mem_nil
    · rw [decide_eq_false crc, endEffects_crcFailed slot]
      exact validDeliveries_of_noFrameDelivery (noFrameDelivery_map_feTx _)

theorem feReceive_deliveries {s : State} (b : Byte) (sequenced : Sequenced s.fe) :
    ∃ new, (feReceive b s).trace = s.trace ++ new ∧ ValidDeliveries s.cfg s.fe.reg new := by
  by_cases ended : s.fe.state = .endByte
  · have counted : s.fe.payload.length = s.fe.len.toNat := by
      rw [Sequenced, ended] at sequenced
      obtain ⟨-, counted, -⟩ := sequenced
      exact counted
    refine ⟨_, ?_, validDeliveries_endEffects (f := s.fe.frame) counted (decide (b = s.cfg.frameEnd))⟩
    rw [feReceive_end b ended, feEnd_eq_rested]
    rfl
  · exact ⟨[], by rw [feReceive_trace_of_ne b ended, List.append_nil], fun _ _ mem => absurd mem List.not_mem_nil⟩

theorem feReceiveAll_deliveries {x : Bytes} {s : State} (sequenced : Sequenced s.fe) :
    ∃ new, (feReceiveAll x s).trace = s.trace ++ new ∧ ValidDeliveries s.cfg s.fe.reg new := by
  induction x generalizing s with
  | nil => exact ⟨[], (List.append_nil _).symm, fun _ _ mem => absurd mem List.not_mem_nil⟩
  | cons b x ih =>
    obtain ⟨first, byte, valid⟩ := feReceive_deliveries b sequenced
    obtain ⟨rest, chunk, validRest⟩ := ih (sequenced_feReceive b sequenced)
    obtain ⟨cfg, -, -, -, registry⟩ := feReceive_frame b s
    rw [cfg, registry] at validRest
    exact ⟨first ++ rest, by rw [feReceiveAll_cons, chunk, byte, List.append_assoc],
      validDeliveries_append valid validRest⟩

/-- Only received bytes can lead to a delivery. -/
theorem run_noFrameDelivery {a : Action} (notReceive : ∀ x, a ≠ .feReceive x) {s t : State} (h : a.run s = .next t) :
    ∃ new, t.trace = s.trace ++ new ∧ NoFrameDelivery new := by
  cases a
  case feReceive x => exact absurd rfl (notReceive x)
  case answer | reset =>
    cases h
    exact ⟨[], (List.append_nil _).symm, fun _ _ => List.not_mem_nil⟩
  case feTransmit x =>
    cases h
    exact ⟨_, rfl, noFrameDelivery_map_feTx x⟩
  case feConnect p k =>
    cases slot : s.fe.reg.slot p with
    | none =>
      cases (execFeConnect_free slot k).symm.trans h
      exact ⟨[], (List.append_nil _).symm, fun _ _ => List.not_mem_nil⟩
    | some _ =>
      cases (execFeConnect_taken slot k).symm.trans h
      exact ⟨[.feDiag .feDupConnect], rfl, by simp [NoFrameDelivery]⟩
  case meReceive | meBind | meUnbind | meSend =>
    obtain ⟨new, noDelivery, e⟩ := eq_withMe_emit_of_run rfl h
    exact ⟨new, congrArg State.trace e, noDelivery⟩

/-- Settles O40: only the reception of bytes delivers, byte by byte under the invariant of the accumulator. -/
theorem onlyValidFramesAreDelivered : Obligations.OnlyValidFramesAreDelivered := by
  rintro i s t ⟨⟨invariant, fresh, -⟩, -⟩ h
  have run := run_of_exec h
  by_cases receives : ∃ x, action s.cfg i = .feReceive x
  · obtain ⟨x, e⟩ := receives
    rw [e] at run
    cases run
    exact feReceiveAll_deliveries ((sequenced_iff s.fe).mpr ⟨invariant, fresh⟩)
  · obtain ⟨new, added, noDelivery⟩ := run_noFrameDelivery (not_exists.mp receives) run
    exact ⟨new, added, validDeliveries_of_noFrameDelivery noDelivery⟩

/-! The registry (R26). -/

/-- What an action other than RESET does to the registry: nothing, or the filling of a free slot. -/
theorem run_registry {a : Action} (notReset : a ≠ .reset) {s t : State} (h : a.run s = .next t) :
    t.fe.reg = s.fe.reg ∨ ∃ p k, s.fe.reg.slot p = none ∧ t.fe.reg = s.fe.reg.fill p k := by
  cases a
  case reset => exact absurd rfl notReset
  case feReceive x =>
    cases h
    obtain ⟨-, -, -, -, registry⟩ := feReceiveAll_frame x s
    exact .inl registry
  case answer | feTransmit =>
    cases h
    exact .inl rfl
  case feConnect p k =>
    cases slot : s.fe.reg.slot p with
    | none =>
      cases (execFeConnect_free slot k).symm.trans h
      exact .inr ⟨p, k, slot, rfl⟩
    | some _ =>
      cases (execFeConnect_taken slot k).symm.trans h
      exact .inl rfl
  case meReceive | meBind | meUnbind | meSend =>
    obtain ⟨new, -, e⟩ := eq_withMe_emit_of_run rfl h
    exact .inl (congrArg (·.fe.reg) e)

/-- Settles O41: a slot that is filled was free, and another slot than the occupied one. -/
theorem registrationLastsUntilReset : Obligations.RegistrationLastsUntilReset := by
  intro i s t p h notReset run taken
  rcases run_registry (fun e => notReset (eq_reset_of_action e)) (run_of_exec run) with kept | ⟨q, k, free, filled⟩
  · rw [kept, taken]
  · have other : p ≠ q := by
      rintro rfl
      rw [taken] at free
      cases free
    rw [filled, Registry.slot_fill_other _ q p k other, taken]

/-! The invariant of the Message Engine (R35), phase by phase. -/

/-- The bounds on the FIFO. -/
def QueueInv (q : List Bytes) : Prop := q.length ≤ 1 ∧ ∀ x ∈ q, x.length < 2 ^ 64

theorem queueInv_of_inv {c : Config} {m : MessageEngine} (inv : m.Inv c) : QueueInv m.txq := by
  obtain ⟨⟨-, -, -, short, -⟩, fits, -⟩ := inv
  exact ⟨short, fits⟩

theorem inv_initial (c : Config) : MessageEngine.initial.Inv c := by
  simp [MessageEngine.Inv, MessageEngine.StateInvariant, MessageEngine.QueueFits, MessageEngine.initial]

section Phases

variable {c : Config} {m : MessageEngine} (queue : QueueInv m.txq) (bound : m.bound = true)
include queue bound

theorem inv_of_idle (idle : m.ts = false) (unknown : m.lk = false) (count : m.cnt = 0) (len : m.len = 0)
    (buffer : m.rxbuf = []) : m.Inv c := by
  obtain ⟨short, fits⟩ := queue
  refine ⟨⟨fun _ => ⟨unknown, count, len, buffer⟩, ?_, ?_, short, ?_⟩, fits, ?_⟩ <;> simp [idle, unknown, bound]

theorem inv_of_receivingLength (started : m.ts = true) (unknown : m.lk = false) (few : m.cnt.toNat ≤ 7)
    (buffer : m.rxbuf = []) (bounded : m.len.toNat < 2 ^ (8 * m.cnt.toNat)) : m.Inv c := by
  obtain ⟨short, fits⟩ := queue
  refine ⟨⟨?_, fun _ => ⟨few, buffer, bounded⟩, ?_, short, ?_⟩, fits, ?_⟩ <;> simp [started, unknown, bound]

theorem inv_of_receivingPayload (started : m.ts = true) (known : m.lk = true) (count : m.cnt = 8)
    (missing : m.rxbuf.length < m.len.toNat) (within : capExceeded c m.len = false) : m.Inv c := by
  obtain ⟨short, fits⟩ := queue
  have positive : 1 ≤ m.len.toNat := by omega
  refine ⟨⟨?_, ?_, fun _ => ⟨started, count, positive, missing⟩, short, ?_⟩, fits, fun _ => within⟩ <;>
    simp [started, known, bound]

end Phases

/-- An engine at rest takes any FIFO within the bounds. -/
theorem inv_withTxq {c : Config} {m : MessageEngine} (inv : m.Inv c) (bound : m.bound = true) (idle : m.ts = false)
    {q : List Bytes} (queue : QueueInv q) : MessageEngine.Inv c { m with txq := q } := by
  obtain ⟨⟨clear, -⟩, -⟩ := inv
  obtain ⟨unknown, count, len, buffer⟩ := clear idle
  exact inv_of_idle queue bound idle unknown count len buffer

theorem shiftInU64_bounded {acc : U64} {n : Nat} (bounded : acc.toNat < 2 ^ (8 * n)) (b : Byte) :
    (shiftInU64 acc b).toNat < 2 ^ (8 * (n + 1)) := by
  have room : (2 : Nat) ^ (8 * (n + 1)) = 2 ^ (8 * n) * 256 := by rw [Nat.mul_succ, Nat.pow_add]
  have kept : acc.toNat % 2 ^ 56 ≤ acc.toNat := Nat.mod_le _ _
  have := b.isLt
  rw [shiftInU64_toNat, room]
  omega

theorem meLength_inv {b : Byte} {s t : State} (inv : s.me.Inv s.cfg) (bound : s.me.bound = true)
    (started : s.me.ts = true) (unknown : s.me.lk = false) (h : meLength b s = .next t) : t.me.Inv s.cfg := by
  have queue := queueInv_of_inv inv
  obtain ⟨⟨-, inLength, -⟩, -⟩ := inv
  obtain ⟨few, buffer, bounded⟩ := inLength ⟨started, unknown⟩
  rcases meLength_cases b s with ⟨more, e⟩ | ⟨-, -, e⟩ | ⟨-, -, -, e⟩ | ⟨-, within, nonzero, e⟩ <;>
    cases e.symm.trans h
  · have counted : (s.me.cnt + 1).toNat = s.me.cnt.toNat + 1 := by bv_omega
    have six : (s.me.cnt + 1).toNat ≤ 7 := by bv_omega
    refine inv_of_receivingLength queue bound started unknown six buffer ?_
    rw [State.withMe_me, counted]
    exact shiftInU64_bounded bounded b
  · exact inv_of_idle queue bound rfl rfl rfl rfl rfl
  · have positive : 0 < (shiftInU64 s.me.len b).toNat :=
      Nat.pos_of_ne_zero fun zero => nonzero (BitVec.eq_of_toNat_eq zero)
    exact inv_of_receivingPayload queue bound started rfl rfl positive within

theorem mePayload_inv {s : State} (b : Byte) (inv : s.me.Inv s.cfg) (bound : s.me.bound = true)
    (started : s.me.ts = true) (known : s.me.lk = true) : (mePayload b s).me.Inv s.cfg := by
  have queue := queueInv_of_inv inv
  obtain ⟨⟨-, -, inPayload, -⟩, -, cap⟩ := inv
  obtain ⟨-, eight, -, missing⟩ := inPayload known
  by_cases last : s.me.rxbuf.length + 1 = s.me.len.toNat
  · rw [mePayload_last b last]
    exact inv_of_idle queue bound rfl rfl rfl rfl rfl
  · have stillMissing : (s.me.rxbuf ++ [b]).length < s.me.len.toNat := by
      rw [List.length_append, List.length_singleton]
      omega
    rw [mePayload_more b last]
    exact inv_of_receivingPayload queue bound started known eight stillMissing (cap known)

theorem meReceive_inv {b : Byte} {s t : State} (inv : s.me.Inv s.cfg) (h : meReceive b s = .next t) :
    t.me.Inv t.cfg := by
  obtain ⟨cfg, -⟩ := meReceive_frame h
  have queue := queueInv_of_inv inv
  rw [cfg]
  rcases meReceive_cases b s with ⟨-, e⟩ | ⟨bound, -, -, e⟩ | ⟨bound, idle, -, -, e⟩ | ⟨-, -, -, -, e⟩
    | ⟨bound, started, unknown, e⟩ | ⟨bound, started, known, e⟩
  · cases e.symm.trans h
    exact inv
  · cases e.symm.trans h
    exact inv_of_receivingLength queue bound rfl rfl (Nat.zero_le 7) rfl Nat.one_pos
  · cases e.symm.trans h
    cases q : s.me.txq with
    | nil =>
      rw [meIdleAck_empty q]
      exact inv
    | cons m rest =>
      rw [meIdleAck_queued q]
      rw [q] at queue
      obtain ⟨short, fits⟩ := queue
      exact inv_withTxq inv bound idle ⟨Nat.le_of_succ_le short, fun x mem => fits x (List.mem_cons_of_mem m mem)⟩
  · cases e.symm.trans h
    exact inv
  · exact meLength_inv inv bound started unknown (e.symm.trans h)
  · cases e.symm.trans h
    exact mePayload_inv b inv bound started known

theorem meReceiveAll_inv {x : Bytes} {s t : State} (inv : s.me.Inv s.cfg) (h : meReceiveAll x s = .next t) :
    t.me.Inv t.cfg := by
  induction x generalizing s with
  | nil =>
    cases h
    exact inv
  | cons b x ih =>
    obtain ⟨u, received, rest⟩ := andThen_eq_next.mp h
    exact ih (meReceive_inv inv received) rest

theorem execMeBind_inv {s : State} (inv : s.me.Inv s.cfg) : MessageEngine.Inv s.cfg { s.me with bound := true } := by
  cases bound : s.me.bound with
  | true =>
    rw [← bound]
    exact inv
  | false =>
    obtain ⟨⟨-, -, -, -, unbound⟩, -⟩ := inv
    rw [unbound bound]
    exact inv_of_idle ⟨Nat.zero_le 1, fun _ mem => absurd mem List.not_mem_nil⟩ rfl rfl rfl rfl rfl rfl

theorem execMeSend_inv {m : Bytes} {s t : State} (inv : s.me.Inv s.cfg) (h : execMeSend m s = .next t) :
    t.me.Inv s.cfg := by
  obtain ⟨fits, ⟨-, rfl⟩ | ⟨-, -, rfl⟩ | ⟨bound, idle, -, rfl⟩⟩ := execMeSend_cases h
  · exact inv
  · exact inv
  · exact inv_withTxq inv bound idle ⟨Nat.le_refl 1, fun x mem => List.mem_singleton.mp mem ▸ fits⟩

/-- An action on the Message Engine keeps its invariant. -/
theorem run_onMessageEngine_inv {a : Action} (onMe : a.onMessageEngine = true) {s t : State} (inv : s.me.Inv s.cfg)
    (h : a.run s = .next t) : t.me.Inv s.cfg := by
  obtain ⟨new, -, e⟩ := eq_withMe_emit_of_run onMe h
  have cfg : t.cfg = s.cfg := (congrArg State.cfg e :)
  cases a
  case meReceive x => exact cfg ▸ meReceiveAll_inv inv h
  case meBind =>
    cases h
    exact execMeBind_inv inv
  case meUnbind =>
    cases h
    exact inv_initial s.cfg
  case meSend m => exact execMeSend_inv inv h
  all_goals cases onMe

/-! The invariant of the Frame Engine. -/

theorem fe_inv_iff (f : FrameEngine) : f.Inv ↔ Sequenced f ∧ f.reg.Canonical := by
  rw [sequenced_iff, and_assoc]

/-- Only received bytes move the accumulator. -/
theorem run_onFrameEngine_inv {a : Action} (onFe : a.onFrameEngine = true) {s t : State} (inv : s.fe.Inv)
    (h : a.run s = .next t) : t.fe.Inv := by
  cases a
  case feReceive x =>
    cases h
    obtain ⟨sequenced, canonical⟩ := (fe_inv_iff s.fe).mp inv
    obtain ⟨-, -, -, -, registry⟩ := feReceiveAll_frame x s
    exact (fe_inv_iff _).mpr ⟨sequenced_feReceiveAll sequenced, registry ▸ canonical⟩
  case feTransmit x =>
    cases h
    exact inv
  case feConnect p k =>
    cases slot : s.fe.reg.slot p with
    | none =>
      cases (execFeConnect_free slot k).symm.trans h
      obtain ⟨invariant, fresh, canonical⟩ := inv
      exact ⟨invariant, fresh, Registry.fill_canonical canonical p k⟩
    | some _ =>
      cases (execFeConnect_taken slot k).symm.trans h
      exact inv
  all_goals cases onFe

theorem fe_inv_initial : FrameEngine.initial.Inv :=
  (fe_inv_iff _).mpr ⟨sequenced_resting [], List.Pairwise.nil⟩

theorem run_inv {a : Action} {s t : State} (inv : s.Inv) (h : a.run s = .next t) : t.Inv := by
  obtain ⟨fe, me⟩ := inv
  rcases run_cases h with ⟨r, -, rfl⟩ | ⟨onFe, new, e⟩ | ⟨onMe, new, -, e⟩ | ⟨-, rfl⟩
  · exact ⟨fe, me⟩
  · have cfg : t.cfg = s.cfg := (congrArg State.cfg e :)
    have kept : t.me = s.me := (congrArg State.me e :)
    exact ⟨run_onFrameEngine_inv onFe fe h, by rw [cfg, kept]; exact me⟩
  · have cfg : t.cfg = s.cfg := (congrArg State.cfg e :)
    have kept : t.fe = s.fe := (congrArg State.fe e :)
    exact ⟨by rw [kept]; exact fe, by rw [cfg]; exact run_onMessageEngine_inv onMe me h⟩
  · exact ⟨fe_inv_initial, inv_initial s.cfg⟩

/-- A step with a next state had nothing to do, or ran one operation (R66, R237). -/
theorem step_cases {s t : State} (h : step s = .next t) :
    (s.pending = [] ∧ t = s)
    ∨ ∃ w rest i, s.pending = w :: rest ∧ decode s.cfg w = .ok i ∧ exec i { s with pending := rest } = .next t := by
  unfold step at h
  split at h
  case h_1 none =>
    cases h
    exact .inl ⟨none, rfl⟩
  case h_2 w rest queued =>
    split at h
    case h_1 i decoded => exact .inr ⟨w, rest, i, queued, decoded, h⟩
    case h_2 => cases h

/-- Settles O55: a step is an operation, an operation does its action, and every action keeps both engines' invariants;
the schedule is no part of them. -/
theorem everyStepKeepsTheInvariant : Obligations.EveryStepKeepsTheInvariant := by
  intro s t inv h
  rcases step_cases h with ⟨-, rfl⟩ | ⟨w, rest, i, -, -, run⟩
  · exact inv
  · have consumed : State.Inv { s with pending := rest } := inv
    exact run_inv consumed (run_of_exec run)

end Sys2Proof.Proofs.Preservation
end

section
/-! The block: reset, the step, totality, and the commands that receive nothing. -/

namespace Sys2Proof.Proofs.Block

open Machine Claims MessageRows Actions Preservation

theorem meReceiveAll_total {x : Bytes} {s : State} (noCap : s.cfg.meRxbufCap = none) :
    ∃ t, meReceiveAll x s = .next t := by
  induction x generalizing s with
  | nil => exact ⟨s, rfl⟩
  | cons b x ih =>
    obtain ⟨u, received⟩ := meReceive_total (b := b) noCap
    obtain ⟨cfg, -⟩ := meReceive_frame received
    rw [Arrivals.meReceiveAll_cons_of_next received]
    exact ih (cfg ▸ noCap)

theorem execFeConnect_total (p : Byte) (h : HandlerId) (s : State) : ∃ t, execFeConnect p h s = .next t := by
  cases slot : s.fe.reg.slot p with
  | none => exact ⟨_, execFeConnect_free slot h⟩
  | some _ => exact ⟨_, execFeConnect_taken slot h⟩

theorem execMeSend_total {m : Bytes} (fits : m.length < 2 ^ 64) (s : State) : ∃ t, execMeSend m s = .next t := by
  cases bound : s.me.bound with
  | false => exact ⟨_, exec_meSend_unbound fits bound⟩
  | true =>
    by_cases busy : s.me.ts = true ∨ s.me.txq ≠ []
    · exact ⟨_, exec_meSend_busy fits bound busy⟩
    · rw [not_or, Bool.not_eq_true, not_not] at busy
      obtain ⟨idle, empty⟩ := busy
      exact ⟨_, exec_meSend_free fits bound idle empty⟩

/-- Settles O1: the reset values are the definitions of R44. -/
theorem resetValuesOfEveryRegister : Obligations.ResetValuesOfEveryRegister :=
  ⟨rfl, fun _ => ⟨rfl, fun _ => rfl⟩⟩

/-- Settles O2: RESET writes the reset values of both engines and nothing else. -/
theorem resetOperationRestoresBothEngines : Obligations.ResetOperationRestoresBothEngines := fun _ => rfl

/-- Settles O3: both engines' reset values meet their invariants. -/
theorem resetStateMeetsTheInvariant : Obligations.ResetStateMeetsTheInvariant :=
  fun c => ⟨fe_inv_initial, inv_initial c⟩

/-- A step takes the oldest pending transaction. -/
theorem step_of_decode {s : State} {w : Bytes} {rest : List Bytes} {i : Instr} (queued : s.pending = w :: rest)
    (decoded : decode s.cfg w = .ok i) : step s = exec i { s with pending := rest } := by
  simp only [step, queued, decoded]

/-- Settles O4: the three cases of a step, and the word the host places is the oldest transaction. -/
theorem stepRunsTheDecodedOperation : Obligations.StepRunsTheDecodedOperation := by
  refine fun s => ⟨fun w rest i queued decoded => step_of_decode queued decoded, fun none => ?_,
    fun w rest e queued refused => ?_, fun nbits w i decoded => ?_⟩
  · simp only [step, none]
  · simp only [step, queued, refused]
  · exact step_of_decode (s := s.withFetchWord nbits w) rfl decoded

/-- Settles O56: without a cap every action has a next state; the bound on a message is the operation's own. -/
theorem everyOperationIsTotal : Obligations.EveryOperationIsTotal := by
  intro i s wellFormed noCap
  rw [exec_eq_run wellFormed]
  cases a : action s.cfg i with
  | answer | feReceive | feTransmit | meBind | meUnbind | reset => exact ⟨_, rfl⟩
  | feConnect p h => exact execFeConnect_total p h s
  | meReceive x => exact meReceiveAll_total noCap
  | meSend m =>
    rw [eq_meSend_of_action a] at wellFormed
    exact execMeSend_total ((messageFits_iff m).mp wellFormed) s

/-- Settles O60: a local action writes the registry, the binding or the tail of the FIFO. -/
theorem localCommandsDoNotAdvanceReception : Obligations.LocalCommandsDoNotAdvanceReception := by
  intro i s t isLocal h
  have run := run_of_exec h
  rw [← action_isLocal s.cfg] at isLocal
  cases a : action s.cfg i <;> rw [a] at run isLocal
  case answer | feTransmit | meBind =>
    cases run
    exact ⟨rfl, rfl, [], (List.append_nil _).symm⟩
  case feConnect p k =>
    cases slot : s.fe.reg.slot p with
    | none =>
      cases (execFeConnect_free slot k).symm.trans run
      exact ⟨rfl, rfl, [], (List.append_nil _).symm⟩
    | some _ =>
      cases (execFeConnect_taken slot k).symm.trans run
      exact ⟨rfl, rfl, [], (List.append_nil _).symm⟩
  case meSend m =>
    obtain ⟨-, ⟨-, rfl⟩ | ⟨-, -, rfl⟩ | ⟨-, -, empty, rfl⟩⟩ := execMeSend_cases run
    · exact ⟨rfl, rfl, [], (List.append_nil _).symm⟩
    · exact ⟨rfl, rfl, [], (List.append_nil _).symm⟩
    · exact ⟨rfl, rfl, [m], by rw [State.withMe_me, empty, List.nil_append]⟩
  all_goals cases isLocal

end Sys2Proof.Proofs.Block
end
